-- ==== Sys2Proof/Word.lean ====
section
/-! DEFINITION. The words of HCE: 8-bit bytes, 64-bit register words, and half-open ranges of addresses (spec/00_scope.md R8, R9). -/

namespace Sys2Proof

/-- A byte: 8 bits (00_scope.md R8). -/
abbrev Byte := BitVec 8

/-- A register word: 64 bits, unsigned (00_scope.md R9, 10_state.md R20). -/
abbrev Word := BitVec 64

/-- The number of system-memory addresses, 2^64 (20_memory.md R71). -/
abbrev addressLimit : Nat := 18446744073709551616

/-- The addresses `lo, lo + 1, ..., hi - 1`. -/
structure Range where
  lo : Nat
  hi : Nat
  deriving DecidableEq, Repr

end Sys2Proof
end

