-- ==== Sys2Proof/Syntax.lean ====
section
/-! DEFINITION. The commands of HCE, one constructor per row of spec/opcode_table.json (30_encoding.md R103), and the raw command word (R100). -/

namespace Sys2Proof

/-- The 23 commands. A command word packs no operand (30_encoding.md R101): the operands are the
latched arguments A0-A3 of State, so no constructor carries a field. -/
inductive Instr
  | nop
  | freqClear
  | freqLoad
  | treeBuild
  | treeLengths
  | canonAssign
  | bwOpen
  | bwWrite
  | bwSym
  | bwFlush
  | brOpen
  | brReadbit
  | brSym
  | brClose
  | frameEncode
  | frameDecode
  | archBegin
  | archAdd
  | archEnd
  | archOpen
  | archEntry
  | archFind
  | archExtract
  deriving DecidableEq, Repr

/-- A command word by fields, well formed or not (30_encoding.md R100). -/
structure CmdWord where
  opcode   : BitVec 8
  reserved : BitVec 56
  deriving DecidableEq, Repr

end Sys2Proof
end

