-- ==== Sys2Proof/WellFormed.lean ====
section
/-! DEFINITION. When a command word is legal (spec/30_encoding.md R100, R103, R104): its reserved bits are 0 and its opcode is assigned. -/

namespace Sys2Proof

/-- The assigned opcodes, in the order of the opcode map (30_encoding.md R103). -/
def assignedOpcodes : List Nat :=
  [0x00] ++ [0x10, 0x11, 0x12, 0x13] ++ [0x20] ++
  [0x30, 0x31, 0x32, 0x33, 0x34, 0x35, 0x36, 0x37] ++ [0x40, 0x41] ++
  [0x50, 0x51, 0x52, 0x53, 0x54, 0x55, 0x56]

/-- Check 1 of 30_encoding.md R100: RESERVED must be 0. -/
def CmdWord.reservedClear (c : CmdWord) : Bool := c.reserved == 0

/-- Check 2 of 30_encoding.md R100: OPCODE must be listed in R103. -/
def CmdWord.opcodeAssigned (c : CmdWord) : Bool := assignedOpcodes.contains c.opcode.toNat

/-- A legal command word (30_encoding.md R100). -/
def CmdWord.wf (c : CmdWord) : Bool := c.reservedClear && c.opcodeAssigned

/-- A command is well formed as syntax whatever it is: it has no operand fields (30_encoding.md R101). -/
def Instr.wf : Instr → Bool
  | .nop | .freqClear | .freqLoad | .treeBuild | .treeLengths | .canonAssign => true
  | .bwOpen | .bwWrite | .bwSym | .bwFlush | .brOpen | .brReadbit | .brSym | .brClose => true
  | .frameEncode | .frameDecode => true
  | .archBegin | .archAdd | .archEnd | .archOpen | .archEntry | .archFind | .archExtract => true

end Sys2Proof
end

