-- ==== Sys2Proof/Decode.lean ====
section
/-! DEFINITION. The decoder of the command word, total on every 64-bit word and rejecting by name, and the encoder (spec/30_encoding.md R100, R103, R104; 40_host_interface.md R147). -/

namespace Sys2Proof

/-- Why a command word is illegal (30_encoding.md R100). Both are BAD_OPCODE to the host. -/
inductive DecodeReject
  /-- Bits [63:8] are not 0. -/
  | reservedBits (word : Word)
  /-- Bits [7:0] hold an opcode 30_encoding.md R103 does not list. -/
  | unassignedOpcode (opcode : Byte)
  deriving DecidableEq, Repr

/-- The fields of a command word (30_encoding.md R100). -/
def CmdWord.ofWord (w : Word) : CmdWord :=
  { opcode := w.extractLsb' 0 8, reserved := w.extractLsb' 8 56 }

/-- The 64-bit word of the fields: RESERVED in bits [63:8], OPCODE in bits [7:0]. -/
def CmdWord.toWord (c : CmdWord) : Word := c.reserved ++ c.opcode

/-- The opcode map read from opcode to command (30_encoding.md R103). -/
def commandOfOpcode : Nat → Option Instr
  | 0x00 => some .nop
  | 0x10 => some .freqClear
  | 0x11 => some .freqLoad
  | 0x12 => some .treeBuild
  | 0x13 => some .treeLengths
  | 0x20 => some .canonAssign
  | 0x30 => some .bwOpen
  | 0x31 => some .bwWrite
  | 0x32 => some .bwSym
  | 0x33 => some .bwFlush
  | 0x34 => some .brOpen
  | 0x35 => some .brReadbit
  | 0x36 => some .brSym
  | 0x37 => some .brClose
  | 0x40 => some .frameEncode
  | 0x41 => some .frameDecode
  | 0x50 => some .archBegin
  | 0x51 => some .archAdd
  | 0x52 => some .archEnd
  | 0x53 => some .archOpen
  | 0x54 => some .archEntry
  | 0x55 => some .archFind
  | 0x56 => some .archExtract
  | _ => none

/-- The decoder (40_host_interface.md R147): reserved bits first, then the opcode. -/
def decode (w : Word) : Except DecodeReject Instr :=
  let c := CmdWord.ofWord w
  if c.reserved ≠ 0 then .error (.reservedBits w)
  else match commandOfOpcode c.opcode.toNat with
    | some i => .ok i
    | none => .error (.unassignedOpcode c.opcode)

/-- The opcode of a command (30_encoding.md R103). -/
def opcodeOf : Instr → BitVec 8
  | .nop => 0x00
  | .freqClear => 0x10
  | .freqLoad => 0x11
  | .treeBuild => 0x12
  | .treeLengths => 0x13
  | .canonAssign => 0x20
  | .bwOpen => 0x30
  | .bwWrite => 0x31
  | .bwSym => 0x32
  | .bwFlush => 0x33
  | .brOpen => 0x34
  | .brReadbit => 0x35
  | .brSym => 0x36
  | .brClose => 0x37
  | .frameEncode => 0x40
  | .frameDecode => 0x41
  | .archBegin => 0x50
  | .archAdd => 0x51
  | .archEnd => 0x52
  | .archOpen => 0x53
  | .archEntry => 0x54
  | .archFind => 0x55
  | .archExtract => 0x56

/-- The encoder: the command word of a command (30_encoding.md R100). -/
def encode (i : Instr) : Word := (CmdWord.mk (opcodeOf i) 0).toWord

/-- The command word the host's interface gives as a number: bit 0 is bit 0 of the CMD write, and
every bit from `nbits` on is 0. -/
def commandWord (nbits w : Nat) : Word := BitVec.ofNat 64 (w % 2 ^ nbits)

/-- What the decoder reads from an opcode-table word. -/
def decodeTableWord (nbits w : Nat) : Option Instr :=
  match decode (commandWord nbits w) with
  | .ok i => some i
  | .error _ => none

end Sys2Proof
end

