-- ==== Sys2Proof/Config.lean ====
section
/-! DEFINITION. What an HCE instance fixes (spec/00_scope.md R6; 93_implementation_defined.md P1-P5), and the free values: the values the spec leaves unspecified (00_scope.md R10, R11), as constants without a body. -/

namespace Sys2Proof.Config

/-- The parameters of one instance and its platform (00_scope.md R6). They are plain data carried by
State, so that a statement over all states is a statement over all parameters (log 1: DESIGN CHOICE).
`admitR` and `admitW` list the address ranges where ADMIT_R and ADMIT_W hold; `sideRead` lists the
ranges whose reading has a side effect (20_memory.md R74). -/
structure Params where
  pathLen    : Nat
  maxMembers : Nat
  chunkBytes : Nat
  mmioBase   : Nat
  admitR     : List Range
  admitW     : List Range
  sideRead   : List Range
  deriving DecidableEq, Repr

/-- The ranges 00_scope.md R6 gives the OPEN parameters. -/
abbrev Params.Legal (p : Params) : Prop :=
  (2 ≤ p.pathLen ∧ p.pathLen ≤ 65535) ∧ (1 ≤ p.maxMembers ∧ p.maxMembers ≤ 65535) ∧
    (1 ≤ p.chunkBytes ∧ p.chunkBytes ≤ 65535)

/-- The default parameters of 00_scope.md R6. MMIO_BASE has no default there: 0, with every address
admitted and none with a side effect (log 1: DESIGN CHOICE, unsafe). -/
def Params.default : Params where
  pathLen := 256
  maxMembers := 256
  chunkBytes := 4096
  mmioBase := 0
  admitR := [⟨0, addressLimit⟩]
  admitW := [⟨0, addressLimit⟩]
  sideRead := []

/-- ENTRY_LEN, E = PATH_LEN + 24 (00_scope.md R6). -/
def Params.entryLen (p : Params) : Nat := p.pathLen + 24

/-- FRAME_HDR (00_scope.md R6). -/
abbrev frameHdr : Nat := 269

/-- ARCH_HDR (00_scope.md R6). -/
abbrev archHdr : Nat := 9

/-- MAX_CODE_LEN (00_scope.md R6). -/
abbrev maxCodeLen : Nat := 64

/-- ARCH_VERSION (00_scope.md R6). -/
abbrev archVersion : Byte := 1

/-- The size of the register window (10_state.md R20). -/
abbrev windowBytes : Nat := 0x8000

/-- FREE VALUE. The unspecified byte of draw number `draw` at address `addr` (00_scope.md R11;
93_implementation_defined.md I1-I4, I6-I9; log 3). -/
opaque freeByte (draw addr : Nat) : Byte

/-- FREE VALUE. The unspecified word of draw number `draw`: a register read while BUSY = 1
(40_host_interface.md R141; 93 I5; log 13), and an error detail that does not fit ERRINFO (log 17). -/
opaque freeWord (draw : Nat) : Word

/-- FREE VALUE. How many host inputs are served between an issue and the engine's performing the
command (40_host_interface.md R144; 93 I11; log 4). -/
opaque freeDelay (draw : Nat) : Nat

end Sys2Proof.Config
end

