-- ==== Sys2Proof/Machine/State.lean ====
section
/-! DEFINITION. The state of HCE as plain data, its reset value, and the ways a step can stop (spec/10_state.md; 70_reset_and_hazards.md R350). -/

namespace Sys2Proof.Machine

/-- A range of system memory whose bytes are unspecified: the byte at `a` is `Config.freeByte draw a`
(00_scope.md R11). -/
structure Region where
  lo   : Nat
  hi   : Nat
  draw : Nat
  deriving DecidableEq, Repr

/-- System memory (20_memory.md R71): the bytes the model knows, and the regions that hold free
bytes. What an unlisted address reads as is `Memory.unlisted` (Machine/Ops.lean). -/
structure Memory where
  cells   : List Host.Cell
  regions : List Region
  deriving DecidableEq, Repr

/-- NODE_LINK[n] (10_state.md R42). -/
structure Link where
  left   : BitVec 16
  right  : BitVec 16
  symbol : Byte
  isLeaf : Bool
  deriving DecidableEq, Repr

/-- The node arena and TREE_INFO (10_state.md R28, R41, R42). -/
structure Tree where
  weight    : Vector Word 511
  link      : Vector Link 511
  nodeCount : BitVec 16
  root      : BitVec 16
  active    : BitVec 16
  deriving DecidableEq, Repr

/-- SORTED[i] (10_state.md R45). -/
structure SortedEntry where
  symbol : Byte
  length : Byte
  deriving DecidableEq, Repr

/-- The canonical tables and CANON_INFO (10_state.md R27, R40, R43-R45). -/
structure Canon where
  code     : Vector Word 256
  sorted   : Vector SortedEntry 256
  rowBase  : Vector Word 65
  rowStart : Vector (BitVec 16) 65
  rowCount : Vector (BitVec 16) 65
  nsym     : BitVec 16
  maxLen   : Byte
  deriving DecidableEq, Repr

/-- The bit writer (43_bitstream.md R220; 10_state.md R31, R32, R46). -/
structure Writer where
  wopen : Bool
  wdst  : Word
  wcap  : Word
  wpos  : Word
  wcfl  : Word
  wacc  : Byte
  wnacc : BitVec 3
  chunk : List Byte
  deriving DecidableEq, Repr

/-- The bit reader (43_bitstream.md R230; 10_state.md R33, R34, R46). -/
structure Reader where
  ropen : Bool
  rsrc  : Word
  rlen  : Word
  rpos  : Word
  rbyte : Byte
  rnb   : BitVec 4
  deriving DecidableEq, Repr

/-- One record of the entry RAM (10_state.md R46). -/
structure Entry where
  path : List Byte
  orig : Word
  comp : Word
  off  : Word
  deriving DecidableEq, Repr

/-- The creation context (45_archive.md R280; 10_state.md R35, R36, R46). `ram` lists the records
written so far; a record past its end is zero (log 15). -/
structure Create where
  archW      : Bool
  abase      : Word
  acap       : Word
  aslots     : BitVec 16
  an         : BitVec 16
  aend       : Word
  afail      : BitVec 32
  partialAdd : Bool
  ram        : List Entry
  deriving DecidableEq, Repr

/-- The reading context (45_archive.md R280; 10_state.md R37, R46). -/
structure Reading where
  archR : Bool
  xbase : Word
  xlen  : Word
  xn    : BitVec 32
  deriving DecidableEq, Repr

/-- The command latch (10_state.md R47): OP and A0-A3. -/
structure Latch where
  op : Word
  a  : Vector Word 4
  deriving DecidableEq, Repr

/-- One input from outside the block: an access of the host, a change of the platform's predicates,
or the reset input (00_scope.md R3; 40_host_interface.md R140; 70_reset_and_hazards.md R350). -/
inductive HostOp
  /-- A read of `bytes` bytes at bus address `addr`, meant for the register window. -/
  | mmioRead (bytes addr : Nat)
  /-- A write of `bytes` bytes at bus address `addr`, meant for the register window. -/
  | mmioWrite (bytes addr : Nat) (value : Word)
  /-- The statement WAIT: read STATUS until BUSY = 0 (30_encoding.md R111). -/
  | wait
  /-- A read of one byte of system memory by the host. -/
  | memRead (addr : Nat)
  /-- A write of one byte of system memory by the host. -/
  | memWrite (addr : Nat) (value : Byte)
  /-- The platform's predicates change (45_archive.md R283: "only if ADMIT_W changed"). -/
  | setAdmit (readable writable sideEffects : List Range)
  /-- The reset input is asserted. -/
  | assertReset
  /-- The reset input is released. -/
  | releaseReset
  deriving DecidableEq, Repr

/-- What an input was answered. -/
inductive Response
  /-- The value of an accepted register read. -/
  | data (value : Word)
  /-- An accepted register write. -/
  | accepted
  /-- A bus-error response (40_host_interface.md R140). -/
  | busError
  /-- Ignored: the reset input is asserted (70_reset_and_hazards.md R350). -/
  | ignored
  /-- The bus address is outside the register window: the access is not this block's (log 19). -/
  | notSelected
  /-- The byte of a host read of system memory. -/
  | byte (value : Byte)
  deriving DecidableEq, Repr

/-- The state of the machine: the engine's registers and hidden state, system memory, the platform's
parameters, and the inputs still to come. -/
structure State where
  -- control and status (10_state.md R23, R25, R26)
  irqEn      : Bool
  busy       : Bool
  done       : Bool
  err        : Bool
  overrun    : Bool
  treeValid  : Bool
  canonValid : Bool
  errcode    : Byte
  errinfo    : Word
  -- arguments, results and the latch (10_state.md R29, R30, R47)
  arg        : Vector Word 4
  res        : Vector Word 4
  latch      : Latch
  -- tables (10_state.md R38-R45)
  freq       : Vector Word 256
  len        : Vector Byte 256
  tree       : Tree
  canon      : Canon
  -- units and contexts (10_state.md R31-R37, R46)
  writer     : Writer
  reader     : Reader
  create     : Create
  reading    : Reading
  -- system memory and the platform (20_memory.md R71; 00_scope.md R6)
  mem        : Memory
  params     : Config.Params
  resetHeld  : Bool
  -- the model's own fields (INVENTORY.md, State)
  inputs     : List HostOp
  responses  : List Response
  delay      : Nat
  raced      : List Nat
  draws      : Nat
  deriving DecidableEq, Repr

/-- The zero NODE_LINK entry. -/
def Link.zero : Link := { left := 0, right := 0, symbol := 0, isLeaf := false }

/-- The arena after reset (10_state.md R50). -/
def Tree.zero : Tree where
  weight := Vector.replicate 511 0
  link := Vector.replicate 511 Link.zero
  nodeCount := 0
  root := 0
  active := 0

/-- The canonical tables after reset (10_state.md R50). -/
def Canon.zero : Canon where
  code := Vector.replicate 256 0
  sorted := Vector.replicate 256 { symbol := 0, length := 0 }
  rowBase := Vector.replicate 65 0
  rowStart := Vector.replicate 65 0
  rowCount := Vector.replicate 65 0
  nsym := 0
  maxLen := 0

/-- The closed writer: all its state 0 (43_bitstream.md R220). -/
def Writer.closed : Writer where
  wopen := false
  wdst := 0
  wcap := 0
  wpos := 0
  wcfl := 0
  wacc := 0
  wnacc := 0
  chunk := []

/-- The closed reader: all its state 0 (43_bitstream.md R230). -/
def Reader.closed : Reader where
  ropen := false
  rsrc := 0
  rlen := 0
  rpos := 0
  rbyte := 0
  rnb := 0

/-- The creation context after reset (10_state.md R50). -/
def Create.zero : Create where
  archW := false
  abase := 0
  acap := 0
  aslots := 0
  an := 0
  aend := 0
  afail := 0
  partialAdd := false
  ram := []

/-- The closed reading context (45_archive.md R280). -/
def Reading.closed : Reading where
  archR := false
  xbase := 0
  xlen := 0
  xn := 0

/-- The latch after reset (10_state.md R50). -/
def Latch.zero : Latch where
  op := 0
  a := Vector.replicate 4 0

/-- Memory before anything is known of it: every byte is free (log 2: DESIGN CHOICE, safe). -/
def Memory.unknown : Memory where
  cells := []
  regions := [{ lo := 0, hi := addressLimit, draw := 0 }]

/-- The machine right after reset (10_state.md R50; 70_reset_and_hazards.md R350). System memory is
not reset: its bytes are free (log 2). The parameters are the defaults (log 1). -/
def State.reset : State where
  irqEn := false
  busy := false
  done := false
  err := false
  overrun := false
  treeValid := false
  canonValid := false
  errcode := 0
  errinfo := 0
  arg := Vector.replicate 4 0
  res := Vector.replicate 4 0
  latch := Latch.zero
  freq := Vector.replicate 256 0
  len := Vector.replicate 256 0
  tree := Tree.zero
  canon := Canon.zero
  writer := Writer.closed
  reader := Reader.closed
  create := Create.zero
  reading := Reading.closed
  mem := Memory.unknown
  params := Config.Params.default
  resetHeld := false
  inputs := []
  responses := []
  delay := 0
  raced := []
  draws := 1

/-- The reasons the machine stops with a fault. -/
inductive Fault
  /-- Raised by a host input that names a system-memory address at or above 2^64, which
  20_memory.md R71 says does not exist. No command raises it. Safe: the machine stops. -/
  | noSuchAddress (addr : Nat)
  deriving DecidableEq, Repr

/-- The reasons a step is refused. -/
inductive Refusal
  /-- Raised only by an arm of exec whose instruction has no meaning yet; every instruction has one,
  so nothing raises it. Safe: the machine stops. -/
  | notModelled (mnemonic : String)
  deriving DecidableEq, Repr

/-- The error codes of 60_exceptions.md R320; `ErrCode.byte` (Machine/Ops.lean) gives each its number. -/
inductive ErrCode
  | ioRead | ioWrite
  | badMagic | truncatedHeader | truncatedTable | underflow | codeTooLong | badCode | badLengths
  | badVersion | truncatedMember | sizeMismatch
  | notFound | badIndex
  | dstFull | tableFull
  | badOpcode | badArg | emptyInput | freqOverflow | freqMismatch | symbolAbsent | noState
  | badRange | badPath
  deriving DecidableEq, Repr

/-- `raise Kind(CODE, info)` (00_scope.md R10): the code, and the detail as an unbounded natural.
`reached` is the model's own: the address after the last byte the command had stored when it raised, 0
if it had stored none (`storedBy`, log 12). -/
structure CmdError where
  code    : ErrCode
  info    : Nat
  reached : Nat := 0
  deriving DecidableEq, Repr

/-- A command that raised an error: the error, and the state with what the command committed before
(60_exceptions.md R321). -/
structure Raised where
  error : CmdError
  state : State
  deriving DecidableEq, Repr

/-- A command that ran to `complete(r0, r1, r2, r3)` (40_host_interface.md R145): the state with
every change of the command, the results, and the range of the addresses it wrote. -/
structure Done where
  state   : State
  r0      : Nat := 0
  r1      : Nat := 0
  r2      : Nat := 0
  r3      : Nat := 0
  written : Range := ⟨0, 0⟩
  deriving DecidableEq, Repr

end Sys2Proof.Machine
end

