-- ==== Sys2Proof/Machine/Ops.lean ====
section
/-! DEFINITION. The named operations over memory and engine state: byte order, system memory, the data port, the ranges of each command, completion, failure (HCE's exception entry) and its return, issue and reset (spec/20_memory.md; 40_host_interface.md; 60_exceptions.md; 70_reset_and_hazards.md). -/

namespace Sys2Proof.Machine

/-! ### Byte order -/

/-- `LE_n(v)`: byte i holds `v[8i+7:8i]` (00_scope.md R9, 20_memory.md R76). -/
def leBytes : Nat → Nat → List Byte
  | 0, _ => []
  | n + 1, v => BitVec.ofNat 8 v :: leBytes n (v / 256)

/-- `LEread(bytes)`, the inverse of `LE` (00_scope.md R9, 20_memory.md R76). -/
def leRead : List Byte → Nat
  | [] => 0
  | b :: bs => b.toNat + 256 * leRead bs

/-- The table of `n` entries whose entry `k` is `f k`. Built from a list, it evaluates entry by entry. -/
def tabulate {α : Type} {n : Nat} (f : Fin n → α) : Vector α n :=
  ⟨(List.ofFn f).toArray, by simp⟩

/-! ### Address ranges -/

/-- Whether an address lies in a range. -/
def inRange (r : Range) (a : Nat) : Bool := decide (r.lo ≤ a ∧ a < r.hi)

/-- Whether an address lies in one of the ranges. -/
def inRanges (rs : List Range) (a : Nat) : Bool := rs.any fun r => inRange r a

/-- `[addr, addr + len)`, cut at the end of the address space. -/
def rangeOf (addr len : Nat) : Range := ⟨addr, min (addr + len) addressLimit⟩

/-- Whether two ranges share an address. -/
def rangesMeet (r q : Range) : Bool := decide (max r.lo q.lo < min r.hi q.hi)

/-! ### System memory -/

/-- The known byte at an address. -/
def lookupCell : List Host.Cell → Nat → Option Byte
  | [], _ => none
  | (k, b) :: cs, a => if k = a then some b else lookupCell cs a

/-- Forget the known byte at an address. -/
def eraseCell (cs : List Host.Cell) (a : Nat) : List Host.Cell := cs.filter fun c => decide (c.1 ≠ a)

/-- Record a byte at its place in the rising list. -/
def insertCell : List Host.Cell → Nat → Byte → List Host.Cell
  | [], a, b => [(a, b)]
  | (k, c) :: cs, a, b =>
    if a < k then (a, b) :: (k, c) :: cs
    else if a = k then (a, b) :: cs
    else (k, c) :: insertCell cs a b

/-- What is left of one region below and above `[lo, hi)`. -/
def carveRegion (lo hi : Nat) (r : Region) : List Region :=
  (if r.lo < min r.hi lo then [{ r with hi := min r.hi lo }] else []) ++
  (if max r.lo hi < r.hi then [{ r with lo := max r.lo hi }] else [])

/-- The regions without the addresses `[lo, hi)`. -/
def carve (lo hi : Nat) (rs : List Region) : List Region := rs.flatMap (carveRegion lo hi)

/-- Add a region at its place in the rising list, joined to a neighbour of the same draw. -/
def insertRegion (r : Region) : List Region → List Region
  | [] => [r]
  | q :: qs =>
    if q.hi < r.lo then q :: insertRegion r qs
    else if q.hi = r.lo then
      if q.draw = r.draw then insertRegion { r with lo := q.lo } qs else q :: insertRegion r qs
    else if r.hi = q.lo ∧ r.draw = q.draw then { r with hi := q.hi } :: qs
    else r :: q :: qs

/-- What an unlisted address reads as: the free byte of the region it lies in (log 2, log 3), and 0
in no region. Reset memory is one region, so 0 is read only where a 0 was written. -/
def unlistedByte (m : Memory) (a : Nat) : Byte :=
  match m.regions.find? fun r => decide (r.lo ≤ a ∧ a < r.hi) with
  | some r => Config.freeByte r.draw a
  | none => 0

/-- The byte at an address (20_memory.md R71). -/
def readByte (m : Memory) (a : Nat) : Byte :=
  match lookupCell m.cells a with
  | some b => b
  | none => unlistedByte m a

/-- Write one byte (20_memory.md R71, R73). Nothing is written outside the address space. -/
def writeByte (m : Memory) (a : Nat) (b : Byte) : Memory :=
  if a < addressLimit then
    { cells := if b = 0 then eraseCell m.cells a else insertCell m.cells a b
      regions := carve a (a + 1) m.regions }
  else m

/-- Every byte of a range becomes the free byte of draw `d` (00_scope.md R11). -/
def havoc (m : Memory) (r : Range) (d : Nat) : Memory :=
  if r.lo < min r.hi addressLimit then
    { cells := m.cells.filter fun c => !inRange ⟨r.lo, min r.hi addressLimit⟩ c.1
      regions := insertRegion { lo := r.lo, hi := min r.hi addressLimit, draw := d }
        (carve r.lo (min r.hi addressLimit) m.regions) }
  else m

/-- `havoc` over several ranges. -/
def havocAll (m : Memory) (rs : List Range) (d : Nat) : Memory :=
  rs.foldl (fun m r => havoc m r d) m

/-- The canonical form: known bytes rise in address, none is 0 and none lies in a region; regions
rise, are not empty, lie in the address space, and two that touch have different draws. Equal
memories are then equal data. -/
abbrev Memory.wf (m : Memory) : Prop :=
  m.cells.Pairwise (fun c d => c.1 < d.1) ∧
  (∀ c ∈ m.cells, c.1 < addressLimit ∧ c.2 ≠ 0 ∧ ∀ r ∈ m.regions, ¬(r.lo ≤ c.1 ∧ c.1 < r.hi)) ∧
  m.regions.Pairwise (fun r q => r.hi < q.lo ∨ (r.hi = q.lo ∧ r.draw ≠ q.draw)) ∧
  ∀ r ∈ m.regions, r.lo < r.hi ∧ r.hi ≤ addressLimit

/-! ### Error codes -/

/-- ERRCODE (60_exceptions.md R320). -/
def ErrCode.byte : ErrCode → Byte
  | .ioRead => 0x11
  | .ioWrite => 0x12
  | .badMagic => 0x21
  | .truncatedHeader => 0x22
  | .truncatedTable => 0x23
  | .underflow => 0x24
  | .codeTooLong => 0x25
  | .badCode => 0x26
  | .badLengths => 0x27
  | .badVersion => 0x28
  | .truncatedMember => 0x29
  | .sizeMismatch => 0x2A
  | .notFound => 0x31
  | .badIndex => 0x32
  | .dstFull => 0x41
  | .tableFull => 0x42
  | .badOpcode => 0x51
  | .badArg => 0x52
  | .emptyInput => 0x53
  | .freqOverflow => 0x54
  | .freqMismatch => 0x55
  | .symbolAbsent => 0x56
  | .noState => 0x57
  | .badRange => 0x58
  | .badPath => 0x59

/-- `fail_if(cond, Kind(CODE, info))` (00_scope.md R10). -/
def failIf (cond : Bool) (code : ErrCode) (info : Nat) : Except CmdError Unit :=
  if cond then .error { code := code, info := info } else .ok ()

/-- An error of a step that commits nothing, raised from the state `s` (60_exceptions.md R321). -/
def raisedIn {α : Type} (s : State) : Except CmdError α → Except Raised α
  | .ok x => .ok x
  | .error e => .error { error := e, state := s }

/-! ### The data port -/

/-- What the engine's reads see during one command: memory as it was when the command began, the
platform, the ranges whose bytes are free for this command (its own write range, 20_memory.md R84, and
the bytes the host wrote while it runs, R83), and the draw of those free bytes. -/
structure View where
  mem    : Memory
  params : Config.Params
  fuzz   : List Range
  draw   : Nat
  deriving DecidableEq, Repr

/-- Whether ADMIT_R or ADMIT_W, given by its ranges, holds at an address (20_memory.md R71). -/
def admits (rs : List Range) (a : Nat) : Bool := decide (a < addressLimit) && inRanges rs a

/-- The byte a read returns: a free byte in the command's own write range (20_memory.md R84), where the
host wrote during the command (R83) and at an address whose reading has a side effect (R74, log 14), and
otherwise the byte in memory. -/
def viewByte (v : View) (a : Nat) : Byte :=
  if inRanges v.fuzz a || inRanges v.params.sideRead a then Config.freeByte v.draw a
  else readByte v.mem a

/-- `MemRead(a, 1)` (00_scope.md R10, 20_memory.md R71). -/
def memRead (v : View) (a : Nat) : Except CmdError Byte :=
  if admits v.params.admitR a then .ok (viewByte v a) else .error { code := .ioRead, info := a }

/-- `MemRead(a, n)`: n single reads in increasing address order, stopping at the first failure
(00_scope.md R10). -/
def memReadN (v : View) : Nat → Nat → Except CmdError (List Byte)
  | _, 0 => .ok []
  | a, n + 1 => do
    let b ← memRead v a
    let bs ← memReadN v (a + 1) n
    .ok (b :: bs)

/-- A step of a command that has stored every byte below `a`: its error has reached `a`, if not
further (log 12). -/
def havingStored {α : Type} (a : Nat) : Except CmdError α → Except CmdError α
  | .ok x => .ok x
  | .error e => .error { e with reached := max a e.reached }

/-- `MemWrite(a, 1, b)` (00_scope.md R10, 20_memory.md R71). A command stores in increasing address order,
so a write that is refused at `a` comes after every byte below. -/
def memWrite (p : Config.Params) (m : Memory) (a : Nat) (b : Byte) : Except CmdError Memory :=
  if admits p.admitW a then .ok (writeByte m a b)
  else .error { code := .ioWrite, info := a, reached := a }

/-- Single writes of the bytes in increasing address order, stopping at the first failure. -/
def memWriteN (p : Config.Params) : Memory → Nat → List Byte → Except CmdError Memory
  | m, _, [] => .ok m
  | m, a, b :: bs => do
    let m' ← memWrite p m a b
    memWriteN p m' (a + 1) bs

/-! ### The latched arguments and the ranges of a command -/

/-- A0 as a natural (10_state.md R47). -/
def a0 (s : State) : Nat := s.latch.a[0].toNat
/-- A1 as a natural (10_state.md R47). -/
def a1 (s : State) : Nat := s.latch.a[1].toNat
/-- A2 as a natural (10_state.md R47). -/
def a2 (s : State) : Nat := s.latch.a[2].toNat
/-- A3 as a natural (10_state.md R47). -/
def a3 (s : State) : Nat := s.latch.a[3].toNat

/-- The writer's range `[WDST, WDST + WCAP)` (20_memory.md R72). -/
def writerRange (s : State) : Range := rangeOf s.writer.wdst.toNat s.writer.wcap.toNat

/-- The archive open for reading, `[XBASE, XBASE + XLEN)` (20_memory.md R72). -/
def archiveRange (s : State) : Range := rangeOf s.reading.xbase.toNat s.reading.xlen.toNat

/-- The read ranges of a command (20_memory.md R72). ARCH_OPEN reads the archive it is given, whose
XBASE and XLEN are A0 and A1. -/
def readRanges (i : Instr) (s : State) : List Range :=
  match i with
  | .freqLoad => [rangeOf (a0 s) 2048]
  | .brReadbit | .brSym => [rangeOf s.reader.rsrc.toNat s.reader.rlen.toNat]
  | .frameEncode | .frameDecode => [rangeOf (a0 s) (a1 s)]
  | .archAdd => [rangeOf (a2 s) (a3 s), rangeOf (a0 s) (a1 s)]
  | .archOpen => [rangeOf (a0 s) (a1 s)]
  | .archEntry | .archExtract => [archiveRange s]
  | .archFind => [archiveRange s, rangeOf (a0 s) (a1 s)]
  | .nop | .freqClear | .treeBuild | .treeLengths | .canonAssign => []
  | .bwOpen | .bwWrite | .bwSym | .bwFlush | .brOpen | .brClose => []
  | .archBegin | .archEnd => []

/-- The write ranges of a command (20_memory.md R72). -/
def writeRanges (i : Instr) (s : State) : List Range :=
  match i with
  | .bwWrite | .bwSym | .bwFlush => [writerRange s]
  | .frameEncode | .frameDecode => [rangeOf (a2 s) (a3 s)]
  | .archBegin => [rangeOf (a0 s) (a1 s)]
  | .archAdd =>
    [⟨s.create.abase.toNat + s.create.aend.toNat,
      min (s.create.abase.toNat + s.create.acap.toNat) addressLimit⟩]
  | .archEnd =>
    [rangeOf s.create.abase.toNat (Config.archHdr + s.create.aslots.toNat * s.params.entryLen)]
  | .archExtract => [rangeOf (a1 s) (a2 s)]
  | .nop | .freqClear | .freqLoad | .treeBuild | .treeLengths | .canonAssign => []
  | .bwOpen | .brOpen | .brReadbit | .brSym | .brClose => []
  | .archOpen | .archEntry | .archFind => []

/-- Where the bytes a command stores begin; it stores them in increasing address order, but for
FRAME_ENCODE's backpatch of a byte already stored (43_bitstream.md R223; 44_frame_codec.md R260, R262;
45_archive.md R281 to R283, R287). -/
def storeStart (i : Instr) (s : State) : Nat :=
  match i with
  | .bwWrite | .bwSym | .bwFlush => s.writer.wdst.toNat + s.writer.wcfl.toNat
  | .frameEncode | .frameDecode => a2 s
  | .archBegin => a0 s
  | .archAdd => s.create.abase.toNat + s.create.aend.toNat
  | .archEnd => s.create.abase.toNat + 5
  | .archExtract => a1 s
  | .nop | .freqClear | .freqLoad | .treeBuild | .treeLengths | .canonAssign => 0
  | .bwOpen | .brOpen | .brReadbit | .brSym | .brClose => 0
  | .archOpen | .archEntry | .archFind => 0

/-- Whether a command's read and write ranges overlap (20_memory.md R84). -/
def selfOverlap (i : Instr) (s : State) : Bool :=
  (readRanges i s).any fun r => (writeRanges i s).any fun q => rangesMeet r q

/-- Addresses as ranges of one byte each. -/
def byteRanges (as : List Nat) : List Range := as.map fun a => ⟨a, a + 1⟩

/-- The reads of a command's k-th reading phase (0 or 1): each phase draws its free bytes anew. A byte the
host wrote during the command is free for the engine, whatever memory holds there (20_memory.md R83): the
engine may have read it before or after the host's write. -/
def viewOf (i : Instr) (s : State) (k : Nat) : View :=
  { mem := s.mem, params := s.params, fuzz := writeRanges i s ++ byteRanges s.raced, draw := s.draws + k }

/-! ### Units and contexts -/

/-- Close the bit writer: all its state 0 (43_bitstream.md R238). -/
def closeWriter (s : State) : State := { s with writer := Writer.closed }

/-- Close the bit reader: all its state 0 (43_bitstream.md R238). -/
def closeReader (s : State) : State := { s with reader := Reader.closed }

/-- Close the creation context, keeping AFAIL and PARTIAL (45_archive.md R280). -/
def closeCreate (s : State) : State :=
  { s with create := { Create.zero with afail := s.create.afail, partialAdd := s.create.partialAdd } }

/-- Close the reading context (45_archive.md R280). -/
def closeReading (s : State) : State := { s with reading := Reading.closed }

/-- `min(AFAIL + 1, 2^32 - 1)` (45_archive.md R282). -/
def bumpFail (n : BitVec 32) : BitVec 32 := if n = BitVec.allOnes 32 then n else n + 1

/-- What every raise of ARCH_ADD also does (45_archive.md R282). -/
def noteFailedAdd (s : State) : State :=
  { s with create := { s.create with partialAdd := true, afail := bumpFail s.create.afail } }

/-- A record of the entry RAM that was never written: all zero (10_state.md R50). -/
def zeroEntry (p : Config.Params) : Entry :=
  { path := List.replicate p.pathLen 0, orig := 0, comp := 0, off := 0 }

/-- `entry[i]` (45_archive.md R280). -/
def getEntry (p : Config.Params) (ram : List Entry) (i : Nat) : Entry := ram.getD i (zeroEntry p)

/-- `entry[i] <- e` (45_archive.md R282). -/
def setEntry (p : Config.Params) : List Entry → Nat → Entry → List Entry
  | [], 0, e => [e]
  | [], i + 1, e => zeroEntry p :: setEntry p [] i e
  | _ :: es, 0, e => e :: es
  | x :: es, i + 1, e => x :: setEntry p es i e

/-! ### Completion -/

/-- Four results as RES0-RES3 (40_host_interface.md R145). -/
def results (r0 r1 r2 r3 : Nat) : Vector Word 4 :=
  #v[BitVec.ofNat 64 r0, BitVec.ofNat 64 r1, BitVec.ofNat 64 r2, BitVec.ofNat 64 r3]

/-- Memory after a successful command: as the command left it, but the bytes it wrote are free if its
ranges overlap (20_memory.md R84, log 8), and so are the bytes of its write range the host wrote while
it ran (R83, log 7). A byte of its read range the host wrote is the free byte of the host's write, which no
read of the engine drew. -/
def settledMem (i : Instr) (s : State) (d : Done) : Memory :=
  let m := if selfOverlap i s then havoc d.state.mem d.written (s.draws + 2) else d.state.mem
  havocAll m (byteRanges (s.raced.filter (inRanges (writeRanges i s)))) (s.draws + 3)

/-- `complete(r0, r1, r2, r3)` (40_host_interface.md R145). -/
def completed (i : Instr) (s : State) (d : Done) : State :=
  { d.state with
    res := results d.r0 d.r1 d.r2 d.r3
    busy := false
    done := true
    mem := settledMem i s d
    raced := []
    delay := 0
    draws := s.draws + 4 }

/-! ### Failure: the exception entry of HCE, and the return from it -/

/-- The error detail as ERRINFO; one that does not fit 64 bits is a free word (log 17). -/
def infoWord (s : State) (info : Nat) : Word :=
  if info < addressLimit then BitVec.ofNat 64 info else Config.freeWord s.draws

/-- EXCEPTION ENTRY. The failed completion (40_host_interface.md R146, 60_exceptions.md R325): the code
and the detail are saved, the results are 0, ERR and DONE are set and the engine is idle. There is no
vector and no mode. -/
def State.deliver (s : State) (e : CmdError) : State :=
  { s with
    res := results 0 0 0 0
    err := true
    errcode := e.code.byte
    errinfo := infoWord s e.info
    busy := false
    done := true
    raced := []
    delay := 0
    draws := s.draws + 4 }

/-- RETURN FROM THE EXCEPTION. The host ends error handling by writing 1 to STATUS.ERR
(60_exceptions.md R326): ERR, ERRCODE, ERRKIND and ERRINFO are cleared. -/
def State.clearErr (s : State) : State := { s with err := false, errcode := 0, errinfo := 0 }

/-- What a failure closes and counts (60_exceptions.md R327, R328; 45_archive.md R282, R283). -/
def failureEffects (i : Instr) (s : State) : State :=
  match i with
  | .bwOpen | .bwWrite | .bwSym | .bwFlush | .frameEncode => closeWriter s
  | .brOpen | .brReadbit | .brSym | .brClose | .frameDecode | .archExtract => closeReader s
  | .archAdd => noteFailedAdd (closeWriter s)
  | .archEnd => closeCreate s
  | .nop | .freqClear | .freqLoad | .treeBuild | .treeLengths | .canonAssign => s
  | .archBegin | .archOpen | .archEntry | .archFind => s

/-- The ranges a failure leaves unspecified: the write range (20_memory.md R89); for every failed BW_*
the writer's range (43_bitstream.md R238, log 10); for ARCH_END the archive so far (45_archive.md R283). -/
def failureRanges (i : Instr) (s : State) : List Range :=
  match i with
  | .bwOpen => [writerRange s]
  | .archEnd => rangeOf s.create.abase.toNat s.create.aend.toNat :: writeRanges i s
  | _ => writeRanges i s

/-- The failures that leave memory as it was: BAD_RANGE, which comes "before any access"
(20_memory.md R75; for BW_OPEN see log 10). After every other failure the write range is unspecified
(R89; 92_eei_decisions.md D28; log 9). -/
def failsUntouched (i : Instr) (e : CmdError) : Bool := e.code == .badRange && i != .bwOpen

/-- `raise Kind(CODE, info)` from a command whose context was present (60_exceptions.md R321): the
committed state, the closings, the unspecified bytes, and the failed completion. -/
def State.raise (i : Instr) (s : State) (r : Raised) : State :=
  State.deliver
    { failureEffects i r.state with
      mem := if failsUntouched i r.error then s.mem
             else havocAll s.mem (failureRanges i s) (s.draws + 2) }
    r.error

/-- The context a command requires (40_host_interface.md R152). -/
def contextPresent (i : Instr) (s : State) : Bool :=
  match i with
  | .treeLengths => s.treeValid
  | .bwWrite | .bwFlush => s.writer.wopen
  | .bwSym => s.writer.wopen && s.canonValid
  | .brReadbit => s.reader.ropen
  | .brSym => s.reader.ropen && s.canonValid
  | .archAdd | .archEnd => s.create.archW
  | .archEntry | .archFind | .archExtract => s.reading.archR
  | .nop | .freqClear | .freqLoad | .treeBuild | .canonAssign => true
  | .bwOpen | .brOpen | .brClose | .frameEncode | .frameDecode | .archBegin | .archOpen => true

/-- One command from context check to completion (40_host_interface.md R144-R146, R152). NO_STATE
changes no state but the error report, and comes before every other check. -/
def runCommand (i : Instr) (s : State) (body : State → Except Raised Done) :
    Host.Outcome State Fault Refusal :=
  if contextPresent i s then
    match body s with
    | .ok d => .next (completed i s d)
    | .error r => .next (s.raise i r)
  else .next (s.deliver { code := .noState, info := (opcodeOf i).toNat })

/-! ### Issue and reset -/

/-- An accepted CMD write (40_host_interface.md R143): the latch is loaded, BUSY rises, and DONE and
the error report are cleared. The delay is a free count (R144, log 4), for an illegal word too
(log 27: DESIGN CHOICE). -/
def State.issue (s : State) (w : Word) : State :=
  { s with
    latch := { op := w, a := s.arg }
    busy := true
    done := false
    err := false
    errcode := 0
    errinfo := 0
    delay := Config.freeDelay s.draws
    raced := []
    draws := s.draws + 1 }

/-- The command in the latch, if its word is legal. -/
def runningCommand (s : State) : Option Instr :=
  match decode s.latch.op with
  | .ok i => some i
  | .error _ => none

/-- Memory after a soft reset abandons a running command: its write range is unspecified
(70_reset_and_hazards.md R351). -/
def abandonedMem (s : State) : Memory :=
  if s.busy then
    match runningCommand s with
    | some i => havocAll s.mem (writeRanges i s) s.draws
    | none => s.mem
  else s.mem

/-- A soft reset (70_reset_and_hazards.md R351): every piece of engine state takes its reset value.
Memory, the platform and the host's side are not the engine's. The reset input, which leaves memory
otherwise, is `State.hardReset` (Machine/HostPort.lean). -/
def State.engineReset (s : State) : State :=
  { State.reset with
    mem := abandonedMem s
    params := s.params
    resetHeld := s.resetHeld
    inputs := s.inputs
    responses := s.responses
    draws := s.draws + 1 }

end Sys2Proof.Machine
end

