-- ==== Sys2Proof/Machine/Operands.lean ====
section
/-! DEFINITION. The argument forms of the commands and their checks (spec/30_encoding.md R101, R102; 20_memory.md R75). -/

namespace Sys2Proof.Machine

/-- `addr` with `len` or `cap`: the range check of 20_memory.md R75. `index` is the number of the
address argument. -/
def checkRange (addr len index : Nat) : Except CmdError Unit :=
  failIf (decide (addressLimit < addr + len)) .badRange index

/-- `count`: a number of bits, 0..64 (30_encoding.md R102). -/
def checkCount (value index : Nat) : Except CmdError Unit := failIf (decide (64 < value)) .badArg index

/-- `sym`: a symbol, 0..255 (30_encoding.md R102). -/
def checkSym (value index : Nat) : Except CmdError Unit := failIf (decide (255 < value)) .badArg index

/-- `slots`: 0..MAX_MEMBERS (30_encoding.md R102). -/
def checkSlots (p : Config.Params) (value index : Nat) : Except CmdError Unit :=
  failIf (decide (p.maxMembers < value)) .badArg index

/-- `index`: an archive entry index below XN (30_encoding.md R102). -/
def checkIndex (s : State) (value : Nat) : Except CmdError Unit :=
  failIf (decide (s.reading.xn.toNat ≤ value)) .badIndex value

/-- `plen` of ARCH_ADD: 1..PATH_LEN - 1 (45_archive.md R282). -/
def checkPathLen (p : Config.Params) (value : Nat) : Except CmdError Unit :=
  failIf (decide (value < 1 ∨ p.pathLen - 1 < value)) .badPath value

/-- `bits`: the 64-bit container; bit `i` of it (30_encoding.md R102, 00_scope.md R8). -/
def containerBit (bits : Word) (i : Nat) : Bool := bits.getLsbD i

end Sys2Proof.Machine
end

