-- ==== Sys2Proof/Machine/Tree.lean ====
section
/-! DEFINITION. The tree builder family: FREQ_CLEAR, FREQ_LOAD, TREE_BUILD, TREE_LENGTHS (spec/41_tree_builder.md). -/

namespace Sys2Proof.Machine

/-! ### The frequency table -/

/-- The table of 256 consecutive 8-byte counts (30_encoding.md R110). -/
def freqOfBytes (bs : List Byte) : Vector Word 256 :=
  tabulate fun k : Fin 256 => BitVec.ofNat 64 (leRead ((bs.drop (8 * k.val)).take 8))

/-- FREQ_CLEAR (41_tree_builder.md R170). -/
def freqClear (s : State) : Except Raised Done :=
  .ok { state := { s with freq := Vector.replicate 256 0, treeValid := false } }

/-- FREQ_LOAD (41_tree_builder.md R171). -/
def freqLoad (s : State) : Except Raised Done := do
  raisedIn s (checkRange (a0 s) 2048 0)
  let bs ← raisedIn s (memReadN (viewOf .freqLoad s 0) (a0 s) 2048)
  .ok { state := { s with freq := freqOfBytes bs, treeValid := false } }

/-- The sum of FREQ, an unbounded natural (41_tree_builder.md R174). -/
def freqSum (f : Vector Word 256) : Nat := (f.toList.map BitVec.toNat).sum

/-! ### Building the tree -/

/-- A node of the arena while the tree is built: its weight and links. -/
structure Node where
  weight : Nat
  link   : Link
  deriving DecidableEq, Repr

/-- NONE, the link of a leaf (10_state.md R42). -/
abbrev noLink : BitVec 16 := 0xFFFF

/-- The leaf of the symbol `k` with frequency `w` (41_tree_builder.md R172). -/
def leafNode (w : Word) (k : Nat) : Node :=
  { weight := w.toNat
    link := { left := noLink, right := noLink, symbol := BitVec.ofNat 8 k, isLeaf := true } }

/-- The leaves, one per symbol of nonzero frequency, in ascending symbol value
(41_tree_builder.md R172). -/
def leafNodes (f : Vector Word 256) : List Node :=
  f.toList.zipIdx.filterMap fun x => if x.1 = 0 then none else some (leafNode x.1 x.2)

/-- The internal node over the nodes `x` (left) and `y` (right) (41_tree_builder.md R173). -/
def innerNode (weight x y : Nat) : Node :=
  { weight := weight
    link := { left := BitVec.ofNat 16 x, right := BitVec.ofNat 16 y, symbol := 0, isLeaf := false } }

/-- Keys (weight, order) compared lexicographically (41_tree_builder.md R173). -/
def keyLess (x y : Nat × Nat) : Bool := decide (x.1 < y.1 ∨ (x.1 = y.1 ∧ x.2 < y.2))

/-- The key with the smallest (weight, id) among `q :: qs`, and the others. -/
def popMin (q : Nat × Nat) : List (Nat × Nat) → (Nat × Nat) × List (Nat × Nat)
  | [] => (q, [])
  | r :: rs =>
    let m := popMin r rs
    if keyLess q m.1 then (q, r :: rs) else (m.1, q :: m.2)

/-- The merge loop (41_tree_builder.md R173, R174): while two nodes have no parent, the two smallest
become the children of a new one. The queue holds (weight, id) of the nodes without a parent; the
result is the arena and the root. `fuel` bounds the merges, of which there are k - 1. -/
def mergeAll : Nat → List (Nat × Nat) → List Node → List Node × Nat
  | _, [], nodes => (nodes, 0)
  | _, [q], nodes => (nodes, q.2)
  | 0, q :: _ :: _, nodes => (nodes, q.2)
  | fuel + 1, q :: r :: rs, nodes =>
    let x := popMin q (r :: rs)
    match x.2 with
    | [] => (nodes, x.1.2)
    | z :: zs =>
      let y := popMin z zs
      let weight := x.1.1 + y.1.1
      mergeAll fuel ((weight, nodes.length) :: y.2) (nodes ++ [innerNode weight x.1.2 y.1.2])

/-- The arena as the NODE windows and TREE_INFO; entries without a node are 0 (41_tree_builder.md
R174, 92_eei_decisions.md D70). -/
def treeOfNodes (nodes : List Node) (root k : Nat) : Tree where
  weight := tabulate fun n : Fin 511 => BitVec.ofNat 64 (((nodes[n.val]?).map Node.weight).getD 0)
  link := tabulate fun n : Fin 511 => ((nodes[n.val]?).map Node.link).getD Link.zero
  nodeCount := BitVec.ofNat 16 nodes.length
  root := BitVec.ofNat 16 root
  active := BitVec.ofNat 16 k

/-- The keys of the leaves, whose ids count from 0 (41_tree_builder.md R172). -/
def leafKeys (leaves : List Node) : List (Nat × Nat) :=
  leaves.zipIdx.map fun x => (x.1.weight, x.2)

/-- The body of TREE_BUILD, a function of FREQ alone (41_tree_builder.md R174). -/
def buildTree (f : Vector Word 256) : Except CmdError Tree := do
  failIf (decide (addressLimit ≤ freqSum f)) .freqOverflow 0
  failIf (decide ((leafNodes f).length = 0)) .emptyInput 0
  let built := mergeAll (leafNodes f).length (leafKeys (leafNodes f)) (leafNodes f)
  .ok (treeOfNodes built.1 built.2 (leafNodes f).length)

/-- The state with a tree just built from FREQ (41_tree_builder.md R174). -/
def withTree (s : State) (t : Tree) : State := { s with tree := t, treeValid := true }

/-- The weight of a node of the arena; 0 outside it. -/
def nodeWeight (t : Tree) (n : Nat) : Nat := ((t.weight[n]?).map BitVec.toNat).getD 0

/-- TREE_BUILD (41_tree_builder.md R174). -/
def treeBuild (s : State) : Except Raised Done := do
  let t ← raisedIn s (buildTree s.freq)
  .ok { state := withTree s t
        r0 := t.active.toNat, r1 := t.root.toNat
        r2 := nodeWeight t t.root.toNat, r3 := t.nodeCount.toNat }

/-! ### Code lengths -/

/-- The leaves reachable from a node, each with its depth (41_tree_builder.md R176, R177). `fuel` bounds
the depth; no tree TREE_BUILD leaves is deeper than 255 (R175, log 23). -/
def leafDepths (t : Tree) : Nat → Nat → Nat → List (Byte × Nat)
  | 0, _, _ => []
  | fuel + 1, id, depth =>
    match t.link[id]? with
    | none => []
    | some l =>
      if l.isLeaf then [(l.symbol, depth)]
      else leafDepths t fuel l.left.toNat (depth + 1) ++ leafDepths t fuel l.right.toNat (depth + 1)

/-- The symbol of the root, which the single-symbol rule needs (41_tree_builder.md R178). -/
def rootSymbol (t : Tree) : Option Byte := (t.link[t.root.toNat]?).map Link.symbol

/-- `D[s]`: the depth of the symbol's leaf, 0 for an absent symbol, and 1 for the only symbol of a
one-leaf tree (41_tree_builder.md R176, R178). -/
def symbolDepth (t : Tree) (leaves : List (Byte × Nat)) (k : Byte) : Nat :=
  if t.active = 1 ∧ rootSymbol t = some k then 1
  else match leaves.find? fun x => x.1 == k with
    | some x => x.2
    | none => 0

/-- The body of TREE_LENGTHS, a function of the arena alone (41_tree_builder.md R176). -/
def treeDepths (t : Tree) : Except CmdError (Vector Byte 256) :=
  let leaves := leafDepths t 512 t.root.toNat 0
  match (List.range 256).find? fun k => decide (Config.maxCodeLen < symbolDepth t leaves (BitVec.ofNat 8 k)) with
  | some k => .error { code := .codeTooLong, info := k }
  | none => .ok (tabulate fun k : Fin 256 =>
      BitVec.ofNat 8 (symbolDepth t leaves (BitVec.ofNat 8 k.val)))

/-- The state with new code lengths; the canonical tables no longer describe them
(41_tree_builder.md R176). -/
def withLengths (s : State) (l : Vector Byte 256) : State := { s with len := l, canonValid := false }

/-- The largest length of a table (41_tree_builder.md R176, 42_canonical.md R200). -/
def maxLength (l : Vector Byte 256) : Nat := l.toList.foldl (fun m b => max m b.toNat) 0

/-- TREE_LENGTHS (41_tree_builder.md R176). -/
def treeLengths (s : State) : Except Raised Done := do
  let l ← raisedIn s (treeDepths s.tree)
  .ok { state := withLengths s l, r0 := maxLength l, r1 := s.tree.active.toNat }

/-! ### The commands -/

/-- FREQ_CLEAR (41_tree_builder.md R170). -/
def execFreqClear (s : State) : Host.Outcome State Fault Refusal := runCommand .freqClear s freqClear

/-- FREQ_LOAD (41_tree_builder.md R171). -/
def execFreqLoad (s : State) : Host.Outcome State Fault Refusal := runCommand .freqLoad s freqLoad

/-- TREE_BUILD (41_tree_builder.md R174). -/
def execTreeBuild (s : State) : Host.Outcome State Fault Refusal := runCommand .treeBuild s treeBuild

/-- TREE_LENGTHS (41_tree_builder.md R176). -/
def execTreeLengths (s : State) : Host.Outcome State Fault Refusal :=
  runCommand .treeLengths s treeLengths

end Sys2Proof.Machine
end

