-- ==== Sys2Proof/Machine/Canonical.lean ====
section
/-! DEFINITION. The canonical code assigner: CANON_ASSIGN and the row lookup (spec/42_canonical.md). -/

namespace Sys2Proof.Machine

/-- bl_count[L] for L ≥ 1: how many symbols have length L (42_canonical.md R200). -/
def lengthCount (l : Vector Byte 256) (n : Nat) : Nat := l.toList.countP fun b => b.toNat == n

/-- bl_count[0..64], with bl_count[0] = 0 (42_canonical.md R200). -/
def lengthCounts (l : Vector Byte 256) : List Nat :=
  0 :: (List.range Config.maxCodeLen).map fun i => lengthCount l (i + 1)

/-- The recurrence first_code[L] = (first_code[L-1] + bl_count[L-1]) * 2 from a first value and the
counts (42_canonical.md R200, 92_eei_decisions.md D63). -/
def codeRecurrence (first : Nat) : List Nat → List Nat
  | [] => [first]
  | c :: cs => first :: codeRecurrence ((first + c) * 2) cs

/-- first_code[L] (42_canonical.md R200). -/
def firstCode (l : Vector Byte 256) (n : Nat) : Nat := (codeRecurrence 0 (lengthCounts l)).getD n 0

/-- The Kraft check at length L (42_canonical.md R202). -/
def kraftHolds (l : Vector Byte 256) (n : Nat) : Bool :=
  decide (firstCode l n + (lengthCounts l).getD n 0 ≤ 2 ^ n)

/-- E: the present symbols with their lengths, by (length ascending, symbol ascending)
(42_canonical.md R200). -/
def sortedEntries (l : Vector Byte 256) : List SortedEntry :=
  (List.range Config.maxCodeLen).flatMap fun i =>
    l.toList.zipIdx.filterMap fun x =>
      if x.1.toNat = i + 1 then some { symbol := BitVec.ofNat 8 x.2, length := x.1 } else none

/-- How many symbols below `k` have length `n`: the place of `k` within its length. -/
def rankWithin (l : Vector Byte 256) (n k : Nat) : Nat := (l.toList.take k).countP fun b => b.toNat == n

/-- The code of a symbol: walking E from first_code[L] by 1 gives the symbol first_code[L] plus its
place within its length, and 0 to an absent symbol (42_canonical.md R200). -/
def symbolCode (l : Vector Byte 256) (k : Fin 256) : Nat :=
  if l[k] = 0 then 0 else firstCode l l[k].toNat + rankWithin l l[k].toNat k.val

/-- ROW_START[L]: how many entries of E are shorter than L (42_canonical.md R200). -/
def rowStartOf (l : Vector Byte 256) (n : Nat) : Nat :=
  l.toList.countP fun b => decide (0 < b.toNat ∧ b.toNat < n)

/-- The tables CANON_ASSIGN writes (42_canonical.md R200, 92_eei_decisions.md D62, D70). -/
def canonTables (l : Vector Byte 256) : Canon where
  code := tabulate fun k : Fin 256 => BitVec.ofNat 64 (symbolCode l k)
  sorted := tabulate fun i : Fin 256 =>
    ((sortedEntries l)[i.val]?).getD { symbol := 0, length := 0 }
  rowBase := tabulate fun n : Fin 65 =>
    if (lengthCounts l).getD n.val 0 = 0 then 0 else BitVec.ofNat 64 (firstCode l n.val)
  rowStart := tabulate fun n : Fin 65 => BitVec.ofNat 16 (rowStartOf l n.val)
  rowCount := tabulate fun n : Fin 65 => BitVec.ofNat 16 ((lengthCounts l).getD n.val 0)
  nsym := BitVec.ofNat 16 (sortedEntries l).length
  maxLen := BitVec.ofNat 8 (maxLength l)

/-- The body of CANON_ASSIGN, a function of LEN alone (42_canonical.md R200, R206): the length bound
(R201), the Kraft check (R202), the tables. -/
def assignCodes (l : Vector Byte 256) : Except CmdError Canon :=
  match l.toList.findIdx? fun b => decide (Config.maxCodeLen < b.toNat) with
  | some k => .error { code := .codeTooLong, info := k }
  | none =>
    match (List.range Config.maxCodeLen).find? fun i => !kraftHolds l (i + 1) with
    | some i => .error { code := .badLengths, info := i + 1 }
    | none => .ok (canonTables l)

/-- The state with canonical tables just derived from LEN (42_canonical.md R203). -/
def withCanon (s : State) (c : Canon) : State := { s with canon := c, canonValid := true }

/-- `lookup(n, v)` (42_canonical.md R204): the symbol of the code `v` of `n` bits, `none` on a miss. -/
def lookupRow (c : Canon) (n v : Nat) : Option Byte :=
  if h : n < 65 then
    let base := c.rowBase[n].toNat
    let count := c.rowCount[n].toNat
    if 0 < count ∧ base ≤ v ∧ v < base + count then
      (c.sorted[c.rowStart[n].toNat + (v - base)]?).map SortedEntry.symbol
    else none
  else none

/-- CANON_ASSIGN (42_canonical.md R200). -/
def canonAssign (s : State) : Except Raised Done := do
  let c ← raisedIn s (assignCodes s.len)
  .ok { state := withCanon s c, r0 := c.nsym.toNat, r1 := c.maxLen.toNat }

/-- CANON_ASSIGN (42_canonical.md R200). -/
def execCanonAssign (s : State) : Host.Outcome State Fault Refusal :=
  runCommand .canonAssign s canonAssign

end Sys2Proof.Machine
end

