-- ==== Sys2Proof/Machine/Bitstream.lean ====
section
/-! DEFINITION. The bit-stream family: BW_OPEN, BW_WRITE, BW_SYM, BW_FLUSH, BR_OPEN, BR_READBIT, BR_SYM, BR_CLOSE (spec/43_bitstream.md). -/

namespace Sys2Proof.Machine

/-! ### The bit writer -/

/-- A writer just opened on a destination (43_bitstream.md R225). -/
def openedWriter (dst cap : Nat) : Writer :=
  { Writer.closed with wopen := true, wdst := BitVec.ofNat 64 dst, wcap := BitVec.ofNat 64 cap }

/-- Where the writer stores its next chunk, WDST + WCFL; every byte below is stored (43_bitstream.md
R223). -/
def Writer.nextStore (w : Writer) : Nat := w.wdst.toNat + w.wcfl.toNat

/-- `chunk_write()` (43_bitstream.md R223). -/
def chunkWrite (p : Config.Params) (w : Writer) (m : Memory) : Except CmdError (Writer × Memory) := do
  let m' ← memWriteN p m w.nextStore w.chunk
  .ok ({ w with wcfl := w.wcfl + BitVec.ofNat 64 w.chunk.length, chunk := [] }, m')

/-- `put_byte(v)` (43_bitstream.md R222). -/
def putByte (p : Config.Params) (w : Writer) (m : Memory) (v : Byte) :
    Except CmdError (Writer × Memory) :=
  if w.wcap.toNat ≤ w.wpos.toNat then
    .error { code := .dstFull, info := w.wpos.toNat + 1, reached := w.nextStore }
  else
    let w' := { w with chunk := w.chunk ++ [v], wpos := w.wpos + 1 }
    if w'.chunk.length = p.chunkBytes then chunkWrite p w' m else .ok (w', m)

/-- `put_bit(b)` (43_bitstream.md R221). -/
def putBit (p : Config.Params) (w : Writer) (m : Memory) (b : Bool) : Except CmdError (Writer × Memory) :=
  let acc : Byte := BitVec.ofNat 8 (w.wacc.toNat * 2 + b.toNat)
  if w.wnacc.toNat + 1 = 8 then do
    let (w', m') ← putByte p w m acc
    .ok ({ w' with wacc := 0, wnacc := 0 }, m')
  else .ok ({ w with wacc := acc, wnacc := w.wnacc + 1 }, m)

/-- `write_bits(bits, count)`: bits count-1 down to 0 (43_bitstream.md R224). -/
def writeBits (p : Config.Params) (bits : Word) : Nat → Writer → Memory → Except CmdError (Writer × Memory)
  | 0, w, m => .ok (w, m)
  | count + 1, w, m => do
    let (w', m') ← putBit p w m (containerBit bits count)
    writeBits p bits count w' m'

/-- The padding a flush adds: `(8 - WNACC) mod 8` (43_bitstream.md R228). -/
def padBits (w : Writer) : Nat := (8 - w.wnacc.toNat) % 8

/-- The flush of BW_FLUSH and FRAME_ENCODE: the padded partial byte, then the chunk buffer
(43_bitstream.md R228, 44_frame_codec.md R260). -/
def flushWriter (p : Config.Params) (w : Writer) (m : Memory) : Except CmdError (Writer × Memory) := do
  let (w', m') ←
    if 0 < w.wnacc.toNat then putByte p w m (BitVec.ofNat 8 (w.wacc.toNat * 2 ^ padBits w))
    else .ok (w, m)
  chunkWrite p w' m'

/-- The addresses a command stores to that takes the writer from `w` to `w'`: the chunks it wrote
(43_bitstream.md R223). -/
def storedRange (w w' : Writer) : Range := ⟨w.nextStore, w'.nextStore⟩

/-- BW_OPEN (43_bitstream.md R225). -/
def bwOpen (s : State) : Except Raised Done := do
  raisedIn s (checkRange (a0 s) (a1 s) 0)
  .ok { state := { s with writer := openedWriter (a0 s) (a1 s) } }

/-- BW_WRITE (43_bitstream.md R226). -/
def bwWrite (s : State) : Except Raised Done := do
  raisedIn s (checkCount (a1 s) 1)
  let (w, m) ← raisedIn s (writeBits s.params s.latch.a[0] (a1 s) s.writer s.mem)
  .ok { state := { s with writer := w, mem := m }, r0 := w.wpos.toNat
        written := storedRange s.writer w }

/-- LEN and CODE of a symbol given as a natural. -/
def symbolTables (s : State) (k : Nat) : Nat × Word :=
  (((s.len[k]?).map BitVec.toNat).getD 0, (s.canon.code[k]?).getD 0)

/-- BW_SYM (43_bitstream.md R227). -/
def bwSym (s : State) : Except Raised Done := do
  raisedIn s (checkSym (a0 s) 0)
  let (length, code) := symbolTables s (a0 s)
  raisedIn s (failIf (decide (length = 0)) .symbolAbsent (a0 s))
  let (w, m) ← raisedIn s (writeBits s.params code length s.writer s.mem)
  .ok { state := { s with writer := w, mem := m }, r0 := w.wpos.toNat, r1 := length
        written := storedRange s.writer w }

/-- BW_FLUSH (43_bitstream.md R228). -/
def bwFlush (s : State) : Except Raised Done := do
  let (w, m) ← raisedIn s (flushWriter s.params s.writer s.mem)
  .ok { state := closeWriter { s with mem := m }, r0 := padBits s.writer, r1 := w.wpos.toNat
        written := storedRange s.writer w }

/-! ### The bit reader -/

/-- A reader just opened on a source (43_bitstream.md R233). -/
def openedReader (src len : Nat) : Reader :=
  { Reader.closed with ropen := true, rsrc := BitVec.ofNat 64 src, rlen := BitVec.ofNat 64 len }

/-- `read_bit()` (43_bitstream.md R231): a bit, or `none` for EOS, and the reader after it. -/
def readBit (v : View) (r : Reader) : Except CmdError (Option Bool × Reader) :=
  if r.rnb = 0 then
    if r.rlen.toNat ≤ r.rpos.toNat then .ok (none, r)
    else do
      let b ← memRead v (r.rsrc.toNat + r.rpos.toNat)
      .ok (some (b.getLsbD 7), { r with rbyte := b, rpos := r.rpos + 1, rnb := 7 })
  else .ok (some (r.rbyte.getLsbD (r.rnb.toNat - 1)), { r with rnb := r.rnb - 1 })

/-- The loop of `decode_symbol` from `n` bits read with value `value` (43_bitstream.md R232). `fuel`
bounds the bits; MAX_LEN stops the loop first. -/
def decodeBits (v : View) (c : Canon) (produced : Nat) :
    Nat → Nat → Nat → Reader → Except CmdError (Byte × Nat × Reader)
  | 0, _, _, _ => .error { code := .badCode, info := produced }
  | fuel + 1, n, value, r => do
    match ← readBit v r with
    | (none, _) => .error { code := .underflow, info := produced }
    | (some b, r') =>
      match lookupRow c (n + 1) (2 * value + b.toNat) with
      | some k => .ok (k, n + 1, r')
      | none =>
        if c.maxLen.toNat ≤ n + 1 then .error { code := .badCode, info := produced }
        else decodeBits v c produced fuel (n + 1) (2 * value + b.toNat) r'

/-- `decode_symbol(done)` (43_bitstream.md R232): the symbol, its length, and the reader after it. -/
def decodeSymbol (v : View) (c : Canon) (r : Reader) (produced : Nat) :
    Except CmdError (Byte × Nat × Reader) := do
  failIf (decide (c.nsym = 0)) .badLengths 0
  decodeBits v c produced 256 0 0 r

/-- BR_OPEN (43_bitstream.md R233). -/
def brOpen (s : State) : Except Raised Done := do
  raisedIn s (checkRange (a0 s) (a1 s) 0)
  .ok { state := { s with reader := openedReader (a0 s) (a1 s) } }

/-- BR_READBIT (43_bitstream.md R234). -/
def brReadbit (s : State) : Except Raised Done := do
  match ← raisedIn s (readBit (viewOf .brReadbit s 0) s.reader) with
  | (none, r) => .ok { state := { s with reader := r }, r0 := 0, r1 := 1 }
  | (some b, r) => .ok { state := { s with reader := r }, r0 := b.toNat, r1 := 0 }

/-- BR_SYM (43_bitstream.md R235). -/
def brSym (s : State) : Except Raised Done := do
  let (k, n, r) ← raisedIn s (decodeSymbol (viewOf .brSym s 0) s.canon s.reader 0)
  .ok { state := { s with reader := r }, r0 := k.toNat, r1 := n }

/-- BR_CLOSE (43_bitstream.md R236). -/
def brClose (s : State) : Except Raised Done := .ok { state := closeReader s }

/-! ### The commands -/

/-- BW_OPEN (43_bitstream.md R225). -/
def execBwOpen (s : State) : Host.Outcome State Fault Refusal := runCommand .bwOpen s bwOpen

/-- BW_WRITE (43_bitstream.md R226). -/
def execBwWrite (s : State) : Host.Outcome State Fault Refusal := runCommand .bwWrite s bwWrite

/-- BW_SYM (43_bitstream.md R227). -/
def execBwSym (s : State) : Host.Outcome State Fault Refusal := runCommand .bwSym s bwSym

/-- BW_FLUSH (43_bitstream.md R228). -/
def execBwFlush (s : State) : Host.Outcome State Fault Refusal := runCommand .bwFlush s bwFlush

/-- BR_OPEN (43_bitstream.md R233). -/
def execBrOpen (s : State) : Host.Outcome State Fault Refusal := runCommand .brOpen s brOpen

/-- BR_READBIT (43_bitstream.md R234). -/
def execBrReadbit (s : State) : Host.Outcome State Fault Refusal :=
  runCommand .brReadbit s brReadbit

/-- BR_SYM (43_bitstream.md R235). -/
def execBrSym (s : State) : Host.Outcome State Fault Refusal := runCommand .brSym s brSym

/-- BR_CLOSE (43_bitstream.md R236). -/
def execBrClose (s : State) : Host.Outcome State Fault Refusal := runCommand .brClose s brClose

end Sys2Proof.Machine
end

