-- ==== Sys2Proof/Machine/Frame.lean ====
section
/-! DEFINITION. The frame codec family: FRAME_ENCODE and FRAME_DECODE (spec/44_frame_codec.md; 30_encoding.md R105, R106). -/

namespace Sys2Proof.Machine

/-- "HUF1" (30_encoding.md R105). -/
def frameMagic : List Byte := [0x48, 0x55, 0x46, 0x31]

/-- The 269 header bytes, with a zero padding count (30_encoding.md R105, 44_frame_codec.md R260). -/
def frameHeader (size : Nat) (l : Vector Byte 256) : List Byte :=
  frameMagic ++ leBytes 8 size ++ l.toList ++ [0]

/-! ### FRAME_ENCODE -/

/-- The checks before any sub-step of FRAME_ENCODE (44_frame_codec.md R260, errors 1 to 4). -/
def encodeChecks (s : State) (src len dst cap : Nat) : Except CmdError Unit := do
  checkRange src len 0
  checkRange dst cap 2
  failIf (decide (cap < Config.frameHdr)) .dstFull Config.frameHdr
  failIf (decide (addressLimit ≤ freqSum s.freq)) .freqOverflow 0
  failIf (decide (freqSum s.freq ≠ len)) .freqMismatch (freqSum s.freq)

/-- The lengths of FRAME_ENCODE: from the tree, or all zero for an empty source, whose tree is not
built (44_frame_codec.md R260). Each sub-step commits (60_exceptions.md R321). -/
def encodeLengths (s : State) (len : Nat) : Except Raised State :=
  if len = 0 then .ok (withLengths s (Vector.replicate 256 0))
  else do
    let t ← raisedIn s (buildTree s.freq)
    let l ← raisedIn (withTree s t) (treeDepths t)
    .ok (withLengths (withTree s t) l)

/-- The lengths and then the codes of FRAME_ENCODE (44_frame_codec.md R260). -/
def encodeTables (s : State) (len : Nat) : Except Raised State := do
  let s1 ← encodeLengths s len
  let c ← raisedIn s1 (assignCodes s1.len)
  .ok (withCanon s1 c)

/-- The payload loop: each source byte's code through the writer (44_frame_codec.md R260). `i` is the
offset of the next byte, the first argument after `s` the bytes left. -/
def encodePayload (v : View) (s : State) (src : Nat) :
    Nat → Nat → Writer → Memory → Except CmdError (Writer × Memory)
  | 0, _, w, m => .ok (w, m)
  | left + 1, i, w, m => do
    let x ← havingStored w.nextStore (memRead v (src + i))
    let (length, code) := symbolTables s x.toNat
    havingStored w.nextStore (failIf (decide (length = 0)) .symbolAbsent i)
    let (w', m') ← writeBits s.params code length w m
    encodePayload v s src left (i + 1) w' m'

/-- Inside FRAME_ENCODE a DST_FULL counts frame bytes, not payload bytes (44_frame_codec.md R260). -/
def frameError (e : CmdError) : CmdError :=
  if e.code = .dstFull then { e with info := Config.frameHdr + e.info } else e

/-- `frameError` on the error of a step. -/
def inFrame {α : Type} : Except CmdError α → Except CmdError α
  | .ok x => .ok x
  | .error e => .error (frameError e)

/-- What FRAME_ENCODE gives: the state, the frame length and the padding count. -/
structure Encoded where
  state  : State
  length : Nat
  pad    : Nat
  deriving DecidableEq, Repr

/-- Header, payload, flush and backpatch of FRAME_ENCODE, in that order, once the tables stand
(44_frame_codec.md R260, 92_eei_decisions.md D64). -/
def encodeFrame (v : View) (s : State) (src len dst cap : Nat) : Except CmdError Encoded := do
  let m1 ← memWriteN s.params s.mem dst (frameHeader len s.len)
  let (w2, m2) ← havingStored (dst + Config.frameHdr) (inFrame (encodePayload v s src len 0
    (openedWriter (dst + Config.frameHdr) (cap - Config.frameHdr)) m1))
  let (w3, m3) ← havingStored (dst + Config.frameHdr) (inFrame (flushWriter s.params w2 m2))
  let m4 ← havingStored (dst + Config.frameHdr + w3.wpos.toNat)
    (memWrite s.params m3 (dst + 268) (BitVec.ofNat 8 (padBits w2)))
  .ok { state := closeWriter { s with mem := m4 }
        length := Config.frameHdr + w3.wpos.toNat
        pad := padBits w2 }

/-- The body of FRAME_ENCODE (44_frame_codec.md R260). -/
def frameEncodeBody (v : View) (s : State) (src len dst cap : Nat) : Except Raised Encoded := do
  raisedIn s (encodeChecks s src len dst cap)
  let s1 ← encodeTables s len
  raisedIn s1 (encodeFrame v s1 src len dst cap)

/-- FRAME_ENCODE (44_frame_codec.md R260). -/
def frameEncode (s : State) : Except Raised Done := do
  let f ← frameEncodeBody (viewOf .frameEncode s 0) s (a0 s) (a1 s) (a2 s) (a3 s)
  .ok { state := f.state, r0 := f.length, r1 := f.pad, written := ⟨a2 s, a2 s + f.length⟩ }

/-! ### FRAME_DECODE -/

/-- The payload loop: decode a symbol, write it (44_frame_codec.md R262). `i` is the number of symbols
written so far, the first argument after `dst` the symbols left. -/
def decodePayload (v : View) (p : Config.Params) (c : Canon) (dst : Nat) :
    Nat → Nat → Reader → Memory → Except CmdError (Reader × Memory)
  | 0, _, r, m => .ok (r, m)
  | left + 1, i, r, m => do
    let (k, _, r') ← havingStored (dst + i) (decodeSymbol v c r i)
    let m' ← memWrite p m (dst + i) k
    decodePayload v p c dst left (i + 1) r' m'

/-- A frame header as read: the original size, the stored lengths, the stored padding count
(30_encoding.md R105). -/
structure Header where
  size    : Nat
  lengths : Vector Byte 256
  padding : Byte
  deriving DecidableEq, Repr

/-- The header fields of bytes 4 to 268 of a frame (30_encoding.md R105). -/
def headerOfBytes (bs : List Byte) : Header where
  size := leRead (bs.take 8)
  lengths := tabulate fun k : Fin 256 => bs.getD (8 + k.val) 0
  padding := bs.getD 264 0

/-- The checks and reads of FRAME_DECODE up to its header (44_frame_codec.md R262, errors 1 to 5). -/
def decodeHeader (v : View) (src len dst cap : Nat) : Except CmdError Header := do
  checkRange src len 0
  checkRange dst cap 2
  failIf (decide (len < Config.frameHdr)) .truncatedHeader len
  let magic ← memReadN v src 4
  failIf (decide (magic ≠ frameMagic)) .badMagic 0
  let bs ← memReadN v (src + 4) 265
  .ok (headerOfBytes bs)

/-- The check ARCH_EXTRACT inserts right after the size is read (45_archive.md R287): the original size
and the index of its entry. FRAME_DECODE has none. -/
def checkSize (expected : Option (Nat × Nat)) (size : Nat) : Except CmdError Unit :=
  match expected with
  | none => .ok ()
  | some (orig, index) => failIf (decide (size ≠ orig)) .sizeMismatch index

/-- What FRAME_DECODE gives: the state, the original size, the payload bytes read and the stored
padding count. -/
structure Decoded where
  state   : State
  size    : Nat
  payload : Nat
  padding : Byte
  deriving DecidableEq, Repr

/-- The decoding of the payload once the tables stand (44_frame_codec.md R262, errors 8 to 10). -/
def decodeFrame (v : View) (s : State) (h : Header) (src len dst cap : Nat) : Except CmdError Decoded := do
  failIf (decide (0 < h.size ∧ s.canon.nsym = 0)) .badLengths 0
  failIf (decide (cap < h.size)) .dstFull h.size
  let (r, m) ← decodePayload v s.params s.canon dst h.size 0
    (openedReader (src + Config.frameHdr) (len - Config.frameHdr)) s.mem
  .ok { state := closeReader { s with mem := m }
        size := h.size, payload := r.rpos.toNat, padding := h.padding }

/-- The body of FRAME_DECODE (44_frame_codec.md R262). The stored lengths commit before CANON_ASSIGN
runs (60_exceptions.md R321). -/
def frameDecodeBody (v : View) (s : State) (src len dst cap : Nat) (expected : Option (Nat × Nat)) :
    Except Raised Decoded := do
  let h ← raisedIn s (decodeHeader v src len dst cap)
  raisedIn s (checkSize expected h.size)
  let s1 := withLengths s h.lengths
  let c ← raisedIn s1 (assignCodes s1.len)
  let s2 := withCanon s1 c
  raisedIn s2 (decodeFrame v s2 h src len dst cap)

/-- FRAME_DECODE (44_frame_codec.md R262). -/
def frameDecode (s : State) : Except Raised Done := do
  let f ← frameDecodeBody (viewOf .frameDecode s 0) s (a0 s) (a1 s) (a2 s) (a3 s) none
  .ok { state := f.state, r0 := f.size, r1 := f.payload, r2 := f.padding.toNat
        written := ⟨a2 s, a2 s + f.size⟩ }

/-! ### The commands -/

/-- FRAME_ENCODE (44_frame_codec.md R260). -/
def execFrameEncode (s : State) : Host.Outcome State Fault Refusal :=
  runCommand .frameEncode s frameEncode

/-- FRAME_DECODE (44_frame_codec.md R262). -/
def execFrameDecode (s : State) : Host.Outcome State Fault Refusal :=
  runCommand .frameDecode s frameDecode

end Sys2Proof.Machine
end

