-- ==== Sys2Proof/Machine/Archive.lean ====
section
/-! DEFINITION. The archive multiplexer family: ARCH_BEGIN, ARCH_ADD, ARCH_END, ARCH_OPEN, ARCH_ENTRY, ARCH_FIND, ARCH_EXTRACT (spec/45_archive.md; 30_encoding.md R107, R108). -/

namespace Sys2Proof.Machine

/-- "HUFF" (30_encoding.md R107). -/
def archMagic : List Byte := [0x48, 0x55, 0x46, 0x46]

/-- The stored path of a path field: its bytes before the first 0x00 (45_archive.md R288). -/
def storedPath (field : List Byte) : List Byte := field.takeWhile fun b => decide (b ≠ 0)

/-- The bytes of a FileEntry record (30_encoding.md R108). -/
def entryBytes (e : Entry) : List Byte :=
  e.path ++ leBytes 8 e.orig.toNat ++ leBytes 8 e.comp.toNat ++ leBytes 8 e.off.toNat

/-! ### Creating an archive -/

/-- The header and placeholder table ARCH_BEGIN writes (45_archive.md R281). -/
def beginBytes (p : Config.Params) (slots : Nat) : List Byte :=
  archMagic ++ [Config.archVersion] ++ leBytes 4 0 ++ List.replicate (slots * p.entryLen) 0

/-- The first step of ARCH_BEGIN: any creation in progress is abandoned, PARTIAL and AFAIL are cleared
(45_archive.md R281, 92_eei_decisions.md D71). -/
def abandonCreate (s : State) : State := { s with create := Create.zero }

/-- The checks and writes of ARCH_BEGIN (45_archive.md R281). -/
def beginWrites (s : State) : Except CmdError Memory := do
  checkRange (a0 s) (a1 s) 0
  checkSlots s.params (a2 s) 2
  let t := Config.archHdr + a2 s * s.params.entryLen
  failIf (decide (a1 s < t)) .dstFull t
  memWriteN s.params s.mem (a0 s) (beginBytes s.params (a2 s))

/-- ARCH_BEGIN (45_archive.md R281). -/
def archBegin (s : State) : Except Raised Done := do
  let m ← raisedIn (abandonCreate s) (beginWrites s)
  let t := Config.archHdr + a2 s * s.params.entryLen
  .ok { state := { abandonCreate s with
          mem := m
          create := { Create.zero with
            archW := true, abase := BitVec.ofNat 64 (a0 s), acap := BitVec.ofNat 64 (a1 s)
            aslots := BitVec.ofNat 16 (a2 s), an := 0, aend := BitVec.ofNat 64 t } }
        r0 := t, written := ⟨a0 s, a0 s + t⟩ }

/-- The checks of ARCH_ADD before its frame, and the path it reads (45_archive.md R282, errors 2 to 6). -/
def addPath (s : State) : Except CmdError (List Byte) := do
  checkRange (a0 s) (a1 s) 0
  checkRange (a2 s) (a3 s) 2
  checkPathLen s.params (a3 s)
  let q ← memReadN (viewOf .archAdd s 0) (a2 s) (a3 s)
  failIf (q.any fun b => b == 0) .badPath (a3 s)
  failIf (decide (s.create.an = s.create.aslots)) .tableFull s.create.aslots.toNat
  .ok q

/-- A path in its field: followed by 0x00 bytes up to PATH_LEN (30_encoding.md R108). -/
def pathField (p : Config.Params) (q : List Byte) : List Byte :=
  q ++ List.replicate (p.pathLen - q.length) 0

/-- The creation context after a member is added (45_archive.md R282). -/
def addMember (p : Config.Params) (c : Create) (q : List Byte) (orig length : Nat) : Create :=
  { c with
    ram := setEntry p c.ram c.an.toNat
      { path := pathField p q, orig := BitVec.ofNat 64 orig
        comp := BitVec.ofNat 64 length, off := c.aend }
    aend := c.aend + BitVec.ofNat 64 length
    an := c.an + 1 }

/-- ARCH_ADD (45_archive.md R282): the path checks, FRAME_ENCODE at the archive's current end, the
record. What every raise also does is `failureEffects`. -/
def archAdd (s : State) : Except Raised Done := do
  let q ← raisedIn s (addPath s)
  let dst := s.create.abase.toNat + s.create.aend.toNat
  let f ← frameEncodeBody (viewOf .archAdd s 1) s (a0 s) (a1 s) dst
    (s.create.acap.toNat - s.create.aend.toNat)
  .ok { state := { f.state with
          create := addMember s.params f.state.create q (a1 s) f.length }
        r0 := s.create.an.toNat, r1 := s.create.aend.toNat, r2 := f.length
        written := ⟨dst, dst + f.length⟩ }

/-- The bytes ARCH_END writes into the table, entry after entry (45_archive.md R283). -/
def tableBytes (p : Config.Params) (ram : List Entry) (n : Nat) : List Byte :=
  (List.range n).flatMap fun i => entryBytes (getEntry p ram i)

/-- ARCH_END (45_archive.md R283). The records are E bytes each, so the table is written in one run. -/
def archEnd (s : State) : Except Raised Done := do
  let base := s.create.abase.toNat
  let m1 ← raisedIn s (memWriteN s.params s.mem (base + 5) (leBytes 4 s.create.an.toNat))
  let m2 ← raisedIn s (memWriteN s.params m1 (base + Config.archHdr)
    (tableBytes s.params s.create.ram s.create.an.toNat))
  .ok { state := closeCreate { s with mem := m2 }
        r0 := s.create.aend.toNat, r1 := s.create.an.toNat, r2 := s.create.afail.toNat
        written := ⟨base + 5, base + Config.archHdr + s.create.an.toNat * s.params.entryLen⟩ }

/-! ### Reading an archive -/

/-- The checks of ARCH_OPEN, and the file count it reads (45_archive.md R284). -/
def openCount (s : State) : Except CmdError Nat := do
  let v := viewOf .archOpen s 0
  checkRange (a0 s) (a1 s) 0
  failIf (decide (a1 s < Config.archHdr)) .truncatedHeader (a1 s)
  let magic ← memReadN v (a0 s) 4
  failIf (decide (magic ≠ archMagic)) .badMagic 0
  let version ← memRead v (a0 s + 4)
  failIf (decide (version ≠ Config.archVersion)) .badVersion version.toNat
  let count ← memReadN v (a0 s + 5) 4
  failIf (decide (a1 s < Config.archHdr + leRead count * s.params.entryLen)) .truncatedTable (leRead count)
  .ok (leRead count)

/-- ARCH_OPEN (45_archive.md R284): the reading context is closed first. -/
def archOpen (s : State) : Except Raised Done := do
  let n ← raisedIn (closeReading s) (openCount s)
  .ok { state := { closeReading s with
          reading := { archR := true, xbase := BitVec.ofNat 64 (a0 s)
                       xlen := BitVec.ofNat 64 (a1 s), xn := BitVec.ofNat 32 n } }
        r0 := n }

/-- The address of entry `i` of the archive open for reading (45_archive.md R285). -/
def entryAddr (s : State) (i : Nat) : Nat :=
  s.reading.xbase.toNat + Config.archHdr + i * s.params.entryLen

/-- ARCH_ENTRY (45_archive.md R285). -/
def archEntry (s : State) : Except Raised Done := do
  let p := s.params.pathLen
  raisedIn s (checkIndex s (a0 s))
  let r ← raisedIn s (memReadN (viewOf .archEntry s 0) (entryAddr s (a0 s)) s.params.entryLen)
  .ok { state := s
        r0 := leRead ((r.drop p).take 8)
        r1 := leRead ((r.drop (p + 8)).take 8)
        r2 := leRead ((r.drop (p + 16)).take 8)
        r3 := (storedPath (r.take p)).length }

/-- The scan of ARCH_FIND from entry `i` with `left` entries left (45_archive.md R286). -/
def findEntry (v : View) (s : State) (q : List Byte) : Nat → Nat → Except CmdError Nat
  | 0, _ => .error { code := .notFound, info := 0 }
  | left + 1, i => do
    let field ← memReadN v (entryAddr s i) s.params.pathLen
    if storedPath field = q then .ok i else findEntry v s q left (i + 1)

/-- The checks and reads of ARCH_FIND (45_archive.md R286). -/
def findPath (s : State) : Except CmdError Nat := do
  checkRange (a0 s) (a1 s) 0
  failIf (decide (s.params.pathLen < a1 s)) .notFound 0
  let q ← memReadN (viewOf .archFind s 0) (a0 s) (a1 s)
  findEntry (viewOf .archFind s 1) s q s.reading.xn.toNat 0

/-- ARCH_FIND (45_archive.md R286). -/
def archFind (s : State) : Except Raised Done := do
  let i ← raisedIn s (findPath s)
  .ok { state := s, r0 := i }

/-- The sizes and offset ARCH_EXTRACT takes from the entry, checked (45_archive.md R287, errors 2 to 5). -/
def extractEntry (s : State) : Except CmdError (Nat × Nat × Nat) := do
  checkRange (a1 s) (a2 s) 1
  checkIndex s (a0 s)
  let r ← memReadN (viewOf .archExtract s 0) (entryAddr s (a0 s) + s.params.pathLen) 24
  let orig := leRead (r.take 8)
  let comp := leRead ((r.drop 8).take 8)
  let off := leRead ((r.drop 16).take 8)
  failIf (decide (s.reading.xlen.toNat < off + comp)) .truncatedMember (a0 s)
  .ok (orig, comp, off)

/-- ARCH_EXTRACT (45_archive.md R287): FRAME_DECODE of the member, with the size check inserted. -/
def archExtract (s : State) : Except Raised Done := do
  let (orig, comp, off) ← raisedIn s (extractEntry s)
  let f ← frameDecodeBody (viewOf .archExtract s 1) s (s.reading.xbase.toNat + off) comp (a1 s) (a2 s)
    (some (orig, a0 s))
  .ok { state := f.state, r0 := f.size, written := ⟨a1 s, a1 s + f.size⟩ }

/-! ### The commands -/

/-- ARCH_BEGIN (45_archive.md R281). -/
def execArchBegin (s : State) : Host.Outcome State Fault Refusal := runCommand .archBegin s archBegin

/-- ARCH_ADD (45_archive.md R282). -/
def execArchAdd (s : State) : Host.Outcome State Fault Refusal := runCommand .archAdd s archAdd

/-- ARCH_END (45_archive.md R283). -/
def execArchEnd (s : State) : Host.Outcome State Fault Refusal := runCommand .archEnd s archEnd

/-- ARCH_OPEN (45_archive.md R284). -/
def execArchOpen (s : State) : Host.Outcome State Fault Refusal := runCommand .archOpen s archOpen

/-- ARCH_ENTRY (45_archive.md R285). -/
def execArchEntry (s : State) : Host.Outcome State Fault Refusal := runCommand .archEntry s archEntry

/-- ARCH_FIND (45_archive.md R286). -/
def execArchFind (s : State) : Host.Outcome State Fault Refusal := runCommand .archFind s archFind

/-- ARCH_EXTRACT (45_archive.md R287). -/
def execArchExtract (s : State) : Host.Outcome State Fault Refusal :=
  runCommand .archExtract s archExtract

end Sys2Proof.Machine
end

