-- ==== Sys2Proof/Machine/Control.lean ====
section
/-! DEFINITION. The control family: NOP (spec/40_host_interface.md R148). -/

namespace Sys2Proof.Machine

/-- NOP (40_host_interface.md R148): `complete(0, 0, 0, 0)`. -/
def nop (s : State) : Except Raised Done := .ok { state := s }

/-- NOP (40_host_interface.md R148). -/
def execNop (s : State) : Host.Outcome State Fault Refusal := runCommand .nop s nop

end Sys2Proof.Machine
end

