-- ==== Sys2Proof/Machine/Dispatch.lean ====
section
/-! DEFINITION. One arm per command: the engine performs it (spec/40_host_interface.md R144, R147; 30_encoding.md R103). -/

namespace Sys2Proof.Machine

def exec (i : Instr) (s : State) : Host.Outcome State Fault Refusal :=
  match i with
  | .nop => Sys2Proof.Machine.execNop s
  | .freqClear => Sys2Proof.Machine.execFreqClear s
  | .freqLoad => Sys2Proof.Machine.execFreqLoad s
  | .treeBuild => Sys2Proof.Machine.execTreeBuild s
  | .treeLengths => Sys2Proof.Machine.execTreeLengths s
  | .canonAssign => Sys2Proof.Machine.execCanonAssign s
  | .bwOpen => Sys2Proof.Machine.execBwOpen s
  | .bwWrite => Sys2Proof.Machine.execBwWrite s
  | .bwSym => Sys2Proof.Machine.execBwSym s
  | .bwFlush => Sys2Proof.Machine.execBwFlush s
  | .brOpen => Sys2Proof.Machine.execBrOpen s
  | .brReadbit => Sys2Proof.Machine.execBrReadbit s
  | .brSym => Sys2Proof.Machine.execBrSym s
  | .brClose => Sys2Proof.Machine.execBrClose s
  | .frameEncode => Sys2Proof.Machine.execFrameEncode s
  | .frameDecode => Sys2Proof.Machine.execFrameDecode s
  | .archBegin => Sys2Proof.Machine.execArchBegin s
  | .archAdd => Sys2Proof.Machine.execArchAdd s
  | .archEnd => Sys2Proof.Machine.execArchEnd s
  | .archOpen => Sys2Proof.Machine.execArchOpen s
  | .archEntry => Sys2Proof.Machine.execArchEntry s
  | .archFind => Sys2Proof.Machine.execArchFind s
  | .archExtract => Sys2Proof.Machine.execArchExtract s

end Sys2Proof.Machine
end

