-- ==== Sys2Proof/Machine/Bodies.lean ====
section
/-! DEFINITION. The body of each command, as data: what its arm of exec runs (spec/30_encoding.md R103). -/

namespace Sys2Proof.Machine

/-- The body of a command: its rule's pseudocode after the context check (30_encoding.md R103). -/
def bodyOf : Instr → State → Except Raised Done
  | .nop => nop
  | .freqClear => freqClear
  | .freqLoad => freqLoad
  | .treeBuild => treeBuild
  | .treeLengths => treeLengths
  | .canonAssign => canonAssign
  | .bwOpen => bwOpen
  | .bwWrite => bwWrite
  | .bwSym => bwSym
  | .bwFlush => bwFlush
  | .brOpen => brOpen
  | .brReadbit => brReadbit
  | .brSym => brSym
  | .brClose => brClose
  | .frameEncode => frameEncode
  | .frameDecode => frameDecode
  | .archBegin => archBegin
  | .archAdd => archAdd
  | .archEnd => archEnd
  | .archOpen => archOpen
  | .archEntry => archEntry
  | .archFind => archFind
  | .archExtract => archExtract

end Sys2Proof.Machine
end

