-- ==== Sys2Proof/Machine/Flags.lean ====
section
/-! DEFINITION. STATUS, its W1C bits, ERRKIND, and the interrupt output (spec/10_state.md R23, R25; 60_exceptions.md R322, R330). -/

namespace Sys2Proof.Machine

/-- A flag as the number 0 or 1. -/
def bit (b : Bool) : Nat := if b then 1 else 0

/-- ERRKIND = ERRCODE[7:4] (60_exceptions.md R322). -/
def errKind (code : Byte) : Nat := code.toNat / 16

/-- STATUS as the host reads it (10_state.md R25). -/
def statusWord (s : State) : Word :=
  BitVec.ofNat 64
    (bit s.busy + bit s.done * 2 + bit s.err * 4 + bit s.overrun * 8 + bit s.create.partialAdd * 16 +
     bit s.treeValid * 32 + bit s.canonValid * 64 + bit s.writer.wopen * 128 +
     bit s.reader.ropen * 256 + bit s.create.archW * 512 + bit s.reading.archR * 1024 +
     s.errcode.toNat * 2 ^ 16 + (errKind s.errcode % 8) * 2 ^ 24)

/-- A write to STATUS acts only on its W1C bits (10_state.md R25, 40_host_interface.md R142). Clearing
ERR is the return from an error (`State.clearErr`). -/
def writeStatus (s : State) (v : Word) : State :=
  let s1 := if v.getLsbD 1 then { s with done := false } else s
  let s2 := if v.getLsbD 2 then s1.clearErr else s1
  if v.getLsbD 3 then { s2 with overrun := false } else s2

/-- The interrupt output, a level (60_exceptions.md R330). -/
def State.irq (s : State) : Bool := s.irqEn && s.done

/-- A CMD, FREQ or LEN write while BUSY = 1 is ignored and noted (10_state.md R25). -/
def noteOverrun (s : State) : State := { s with overrun := true }

end Sys2Proof.Machine
end

