-- ==== Sys2Proof/Machine/Registers.lean ====
section
/-! DEFINITION. The register window: the map, what each register reads, and what a write does (spec/10_state.md R20-R45; 40_host_interface.md R140-R143). -/

namespace Sys2Proof.Machine

/-- The registers and window entries of the map (10_state.md R21). -/
inductive Reg
  | id | ctrl | cmd | status | errinfo | canonInfo | treeInfo
  | arg (n : Fin 4)
  | res (n : Fin 4)
  | wPos | wAcc | rPos | rBuf | aEnd | aCount | aRcount
  | freq (n : Fin 256)
  | len (n : Fin 256)
  | code (n : Fin 256)
  | nodeWeight (n : Fin 511)
  | nodeLink (n : Fin 511)
  | rowBase (n : Fin 65)
  | rowInfo (n : Fin 65)
  | sorted (n : Fin 256)
  deriving DecidableEq, Repr

/-- The index of an offset in a window of `n` entries at `base`. -/
def windowIndex (off base n : Nat) : Option (Fin n) :=
  if h : base ≤ off ∧ off % 8 = 0 ∧ (off - base) / 8 < n then some ⟨(off - base) / 8, h.2.2⟩ else none

/-- The register at an offset; `none` where the offset is unmapped or no multiple of 8
(10_state.md R21, 40_host_interface.md R140). -/
def regAt (off : Nat) : Option Reg :=
  if off = 0x000 then some .id
  else if off = 0x008 then some .ctrl
  else if off = 0x010 then some .cmd
  else if off = 0x018 then some .status
  else if off = 0x020 then some .errinfo
  else if off = 0x028 then some .canonInfo
  else if off = 0x030 then some .treeInfo
  else if off = 0x080 then some .wPos
  else if off = 0x088 then some .wAcc
  else if off = 0x090 then some .rPos
  else if off = 0x098 then some .rBuf
  else if off = 0x0A0 then some .aEnd
  else if off = 0x0A8 then some .aCount
  else if off = 0x0B0 then some .aRcount
  else
    ((windowIndex off 0x040 4).map Reg.arg).or <|
    ((windowIndex off 0x060 4).map Reg.res).or <|
    ((windowIndex off 0x0800 256).map Reg.freq).or <|
    ((windowIndex off 0x1000 256).map Reg.len).or <|
    ((windowIndex off 0x1800 256).map Reg.code).or <|
    ((windowIndex off 0x2000 511).map Reg.nodeWeight).or <|
    ((windowIndex off 0x3000 511).map Reg.nodeLink).or <|
    ((windowIndex off 0x4000 65).map Reg.rowBase).or <|
    ((windowIndex off 0x4400 65).map Reg.rowInfo).or <|
    ((windowIndex off 0x4800 256).map Reg.sorted)

/-- The offset of a register (10_state.md R21). -/
def offsetOf : Reg → Nat
  | .id => 0x000
  | .ctrl => 0x008
  | .cmd => 0x010
  | .status => 0x018
  | .errinfo => 0x020
  | .canonInfo => 0x028
  | .treeInfo => 0x030
  | .arg n => 0x040 + 8 * n.val
  | .res n => 0x060 + 8 * n.val
  | .wPos => 0x080
  | .wAcc => 0x088
  | .rPos => 0x090
  | .rBuf => 0x098
  | .aEnd => 0x0A0
  | .aCount => 0x0A8
  | .aRcount => 0x0B0
  | .freq n => 0x0800 + 8 * n.val
  | .len n => 0x1000 + 8 * n.val
  | .code n => 0x1800 + 8 * n.val
  | .nodeWeight n => 0x2000 + 8 * n.val
  | .nodeLink n => 0x3000 + 8 * n.val
  | .rowBase n => 0x4000 + 8 * n.val
  | .rowInfo n => 0x4400 + 8 * n.val
  | .sorted n => 0x4800 + 8 * n.val

/-! ### Reads -/

/-- ID (10_state.md R22): REV, MAXLEN, PATHLEN, MAXMEM, CHUNK. -/
def idWord (p : Config.Params) : Word :=
  BitVec.ofNat 64
    (0x01 + Config.maxCodeLen * 2 ^ 8 + (p.pathLen % 2 ^ 16) * 2 ^ 16 + (p.maxMembers % 2 ^ 16) * 2 ^ 32 +
     (p.chunkBytes % 2 ^ 16) * 2 ^ 48)

/-- NODE_LINK as a word (10_state.md R42). -/
def linkWord (l : Link) : Word :=
  BitVec.ofNat 64
    (l.left.toNat + l.right.toNat * 2 ^ 16 + l.symbol.toNat * 2 ^ 32 + bit l.isLeaf * 2 ^ 40)

/-- A value that reads 0 while its unit is closed or its entry is beyond the count
(10_state.md R31-R37, R42, R45). -/
def whenTrue (c : Bool) (v : Nat) : Word := if c then BitVec.ofNat 64 v else 0

/-- The value of a register while BUSY = 0 (10_state.md R22-R45). -/
def regValue (s : State) : Reg → Word
  | .id => idWord s.params
  | .ctrl => BitVec.ofNat 64 (bit s.irqEn * 2)
  | .cmd => 0
  | .status => statusWord s
  | .errinfo => s.errinfo
  | .canonInfo => BitVec.ofNat 64 (s.canon.maxLen.toNat + s.canon.nsym.toNat * 2 ^ 16)
  | .treeInfo =>
    BitVec.ofNat 64
      (s.tree.nodeCount.toNat + s.tree.root.toNat * 2 ^ 16 + s.tree.active.toNat * 2 ^ 32)
  | .arg n => s.arg[n]
  | .res n => s.res[n]
  | .wPos => whenTrue s.writer.wopen s.writer.wpos.toNat
  | .wAcc => whenTrue s.writer.wopen (s.writer.wacc.toNat + s.writer.wnacc.toNat * 2 ^ 8)
  | .rPos => whenTrue s.reader.ropen s.reader.rpos.toNat
  | .rBuf => whenTrue s.reader.ropen (s.reader.rbyte.toNat + s.reader.rnb.toNat * 2 ^ 8)
  | .aEnd => whenTrue s.create.archW s.create.aend.toNat
  | .aCount =>
    whenTrue s.create.archW (s.create.an.toNat + s.create.aslots.toNat * 2 ^ 16) +
      BitVec.ofNat 64 (s.create.afail.toNat * 2 ^ 32)
  | .aRcount => whenTrue s.reading.archR s.reading.xn.toNat
  | .freq n => s.freq[n]
  | .len n => BitVec.ofNat 64 s.len[n].toNat
  | .code n => s.canon.code[n]
  | .nodeWeight n => whenTrue (decide (n.val < s.tree.nodeCount.toNat)) s.tree.weight[n].toNat
  | .nodeLink n => if n.val < s.tree.nodeCount.toNat then linkWord s.tree.link[n] else 0
  | .rowBase n => s.canon.rowBase[n]
  | .rowInfo n =>
    BitVec.ofNat 64 (s.canon.rowStart[n].toNat + s.canon.rowCount[n].toNat * 2 ^ 16)
  | .sorted n =>
    whenTrue (decide (n.val < s.canon.nsym.toNat))
      (s.canon.sorted[n].symbol.toNat + s.canon.sorted[n].length.toNat * 2 ^ 8)

/-- The registers whose reads keep their meaning while BUSY = 1 (40_host_interface.md R141). -/
def readableWhileBusy : Reg → Bool
  | .id | .ctrl | .status | .errinfo | .arg _ | .res _ => true
  | .cmd | .canonInfo | .treeInfo | .wPos | .wAcc | .rPos | .rBuf | .aEnd | .aCount | .aRcount => false
  | .freq _ | .len _ | .code _ | .nodeWeight _ | .nodeLink _ | .rowBase _ | .rowInfo _ | .sorted _ =>
    false

/-- Whether an accepted read returns an unspecified value (40_host_interface.md R141): the register is
one the running command may be changing. -/
def readsUnspecified (s : State) (r : Reg) : Bool := s.busy && !readableWhileBusy r

/-- The value an accepted read returns (40_host_interface.md R141; the free word is log 13). -/
def readReg (s : State) (r : Reg) : Word :=
  if readsUnspecified s r then Config.freeWord s.draws else regValue s r

/-! ### Writes -/

/-- A write of CTRL (10_state.md R23; 70_reset_and_hazards.md R351): SRESET wins over IRQ_EN. -/
def writeCtrl (s : State) (v : Word) : State :=
  if v.getLsbD 0 then s.engineReset else { s with irqEn := v.getLsbD 1 }

/-- An accepted write (40_host_interface.md R142). -/
def writeReg (s : State) (r : Reg) (v : Word) : State :=
  match r with
  | .ctrl => writeCtrl s v
  | .cmd => if s.busy then noteOverrun s else s.issue v
  | .status => writeStatus s v
  | .arg n => { s with arg := s.arg.set n v }
  | .freq n => if s.busy then noteOverrun s else { s with freq := s.freq.set n v, treeValid := false }
  | .len n =>
    if s.busy then noteOverrun s
    else { s with len := s.len.set n (v.extractLsb' 0 8), canonValid := false }
  | .id | .errinfo | .canonInfo | .treeInfo | .res _ => s
  | .wPos | .wAcc | .rPos | .rBuf | .aEnd | .aCount | .aRcount => s
  | .code _ | .nodeWeight _ | .nodeLink _ | .rowBase _ | .rowInfo _ | .sorted _ => s

end Sys2Proof.Machine
end

