-- ==== Sys2Proof/Machine/HostPort.lean ====
section
/-! DEFINITION. What each input from outside the block does: register accesses, the host's accesses to system memory and their races with a running command, the platform's predicates, the reset input (spec/40_host_interface.md R140; 20_memory.md R82, R83; 70_reset_and_hazards.md R350). -/

namespace Sys2Proof.Machine

/-- Append an answer. -/
def State.respond (s : State) (r : Response) : State := { s with responses := s.responses ++ [r] }

/-- After a free value is drawn, the next draw is another one. -/
def State.drew (s : State) (drawn : Bool) : State :=
  if drawn then { s with draws := s.draws + 1 } else s

/-- Whether a bus address lies in the register window (10_state.md R20). -/
def inWindow (p : Config.Params) (addr : Nat) : Bool :=
  decide (p.mmioBase ≤ addr ∧ addr < p.mmioBase + Config.windowBytes)

/-- The register of an access; `none` gets a bus error (40_host_interface.md R140). -/
def accessedReg (p : Config.Params) (bytes addr : Nat) : Option Reg :=
  if bytes = 8 then regAt (addr - p.mmioBase) else none

/-- A register read by the host (40_host_interface.md R140, R141). -/
def mmioRead (s : State) (bytes addr : Nat) : State :=
  if !inWindow s.params addr then s.respond .notSelected
  else if s.resetHeld then s.respond .ignored
  else match accessedReg s.params bytes addr with
    | none => s.respond .busError
    | some r => (s.respond (.data (readReg s r))).drew (readsUnspecified s r)

/-- A register write by the host (40_host_interface.md R140, R142). -/
def mmioWrite (s : State) (bytes addr : Nat) (v : Word) : State :=
  if !inWindow s.params addr then s.respond .notSelected
  else if s.resetHeld then s.respond .ignored
  else match accessedReg s.params bytes addr with
    | none => s.respond .busError
    | some r => (writeReg s r v).respond .accepted

/-- Whether an address lies in a range the running command reads or writes (20_memory.md R83). -/
def inRunningRanges (s : State) (a : Nat) : Bool :=
  s.busy &&
    match runningCommand s with
    | some i => inRanges (readRanges i s ++ writeRanges i s) a
    | none => false

/-- Whether the byte a host read of system memory returns is free: in a running command's ranges
(20_memory.md R83), and at an address whose reading has a side effect, where R74 speaks of engine reads
only and what a host's read returns is not given (log 14: DESIGN CHOICE). -/
def hostReadsFree (s : State) (a : Nat) : Bool :=
  inRunningRanges s a || inRanges s.params.sideRead a

/-- A host read of system memory (20_memory.md R82, R83). -/
def hostMemRead (s : State) (a : Nat) : State :=
  if hostReadsFree s a then (s.respond (.byte (Config.freeByte s.draws a))).drew true
  else s.respond (.byte (readByte s.mem a))

/-- A host write of system memory: in a running command's ranges it leaves the byte unspecified, now
and when the command has ended (20_memory.md R83, log 7). -/
def hostMemWrite (s : State) (a : Nat) (b : Byte) : State :=
  if inRunningRanges s a then
    { s with mem := havoc s.mem ⟨a, a + 1⟩ s.draws, raced := a :: s.raced, draws := s.draws + 1 }
  else { s with mem := writeByte s.mem a b }

/-- The bytes a command stores when it is run to its end, or until it raises an error (20_memory.md R72:
"exactly the bytes its pseudocode names"); none without its context. -/
def storedBy (i : Instr) (s : State) : Range :=
  if contextPresent i s then
    match bodyOf i s with
    | .ok d => d.written
    | .error r => ⟨storeStart i s, r.error.reached⟩
  else ⟨0, 0⟩

/-- Memory after the reset input interrupts the engine. The reset itself does not touch memory
(70_reset_and_hazards.md R350), and the interrupted command has not failed. How far its own stores had
got is not given, so each byte it stores is free (log 12: DESIGN CHOICE), and no other. The draw is none of
those the command's reads take (`viewOf`). -/
def interruptedMem (s : State) : Memory :=
  if s.busy then
    match runningCommand s with
    | some i => havoc s.mem (storedBy i s) (s.draws + 2)
    | none => s.mem
  else s.mem

/-- The reset input is asserted (70_reset_and_hazards.md R350): every piece of engine state takes its
reset value, and accesses are ignored until it is released. -/
def State.hardReset (s : State) : State :=
  { s.engineReset with mem := interruptedMem s, resetHeld := true, draws := s.draws + 4 }

/-- One input taken from the queue. WAIT is served as a whole once BUSY is 0 (`engineTurn`); while the
reset input is asserted its reads of STATUS are ignored (R350), what the host then sees is not given,
and the model lets it pass at once (log 28: DESIGN CHOICE). -/
def hostAct (s : State) : HostOp → Host.Outcome State Fault Refusal
  | .mmioRead bytes addr => .next (mmioRead s bytes addr)
  | .mmioWrite bytes addr v => .next (mmioWrite s bytes addr v)
  | .wait => .next s
  | .memRead a => if a < addressLimit then .next (hostMemRead s a) else .fault (.noSuchAddress a)
  | .memWrite a b => if a < addressLimit then .next (hostMemWrite s a b) else .fault (.noSuchAddress a)
  | .setAdmit r w e => .next { s with params := { s.params with admitR := r, admitW := w, sideRead := e } }
  | .assertReset => .next s.hardReset
  | .releaseReset => .next { s with resetHeld := false }

/-- Whether the engine moves next: a word is issued, legal or not (log 27), and its delay is over, or the
host has nothing else to do than wait for it (40_host_interface.md R144, log 4). Polling STATUS changes nothing (R141),
so WAIT is served as a whole. -/
def engineTurn (s : State) : Bool :=
  s.busy && (decide (s.delay = 0) ||
    match s.inputs with
    | [] => true
    | .wait :: _ => true
    | _ :: _ => false)

/-- The state with its first input taken. -/
def State.takeInput (s : State) (rest : List HostOp) : State :=
  { s with inputs := rest, delay := s.delay - 1 }

/-- BAD_OPCODE: an illegal command word fails at decoding, before anything else (40_host_interface.md
R147). "At once" (30_encoding.md R100) is read as: when the engine's turn comes, after the delay of any
issue, so BUSY = 1 may be seen before it (log 27: DESIGN CHOICE). -/
def State.badOpcode (s : State) : State :=
  s.deliver { code := .badOpcode, info := s.latch.op.toNat }

/-- Place a command word where the engine takes its next command from: the latch of an accepted CMD
write, with the delay over (log 5). -/
def State.placeCommand (s : State) (w : Word) : State := { s.issue w with delay := 0, resetHeld := false }

end Sys2Proof.Machine
end

