-- ==== Sys2Proof/Machine/Step.lean ====
section
/-! DEFINITION. One step of the machine: the engine performs the issued command, or the next input is served, or the block is idle (spec/00_scope.md R3; 40_host_interface.md R144, R147; 70_reset_and_hazards.md R361). -/

namespace Sys2Proof.Machine

/-- The engine performs the latched command (40_host_interface.md R144, R147). -/
def engineStep (s : State) : Host.Outcome State Fault Refusal :=
  match decode s.latch.op with
  | .ok i => exec i s
  | .error _ => .next s.badOpcode

/-- One step. An idle block with no input stays as it is: it "never halts on its own"
(70_reset_and_hazards.md R361). -/
def step (s : State) : Host.Outcome State Fault Refusal :=
  if engineTurn s then engineStep s
  else match s.inputs with
    | [] => .next s
    | op :: rest => hostAct (s.takeInput rest) op

/-- `s` with an opcode-table word as the accepted command, so that the very next step performs it
(log 5). -/
def State.withFetchWord (s : State) (nbits w : Nat) : State := s.placeCommand (commandWord nbits w)

end Sys2Proof.Machine
end

