-- ==== Sys2Proof/Safety.lean ====
section
/-! DEFINITION. What a safe run is, in the terms the statements use: no race and no overlap, and the invariants of the units, the contexts, the tables, the status and memory. -/

namespace Sys2Proof.Machine

/-- The host wrote no byte of the running command's ranges (20_memory.md R83, 70_reset_and_hazards.md
R355). -/
abbrev RaceFree (s : State) : Prop := s.raced = []

/-- The command's read and write ranges do not overlap (20_memory.md R84, 70_reset_and_hazards.md R355). -/
abbrev OverlapFree (i : Instr) (s : State) : Prop := selfOverlap i s = false

/-- Every byte of `[addr, addr + len)` may be read, and reading it has no side effect (20_memory.md R71,
R74). -/
def Readable (p : Config.Params) (addr len : Nat) : Prop :=
  ∀ k, k < len → admits p.admitR (addr + k) = true ∧ inRanges p.sideRead (addr + k) = false

/-- Every byte of `[addr, addr + len)` may be written (20_memory.md R71). -/
def Writable (p : Config.Params) (addr len : Nat) : Prop :=
  ∀ k, k < len → admits p.admitW (addr + k) = true

/-- The bytes of `[addr, addr + len)` as memory holds them, lowest address first. -/
def memBytes (m : Memory) (addr len : Nat) : List Byte :=
  (List.range len).map fun k => readByte m (addr + k)

/-! ### The words of the statements -/

/-- The completed state of a command that leaves `s` with those results (40_host_interface.md R145):
results, BUSY and DONE, and the model's own `raced`, `delay` and `draws`. -/
def finished (s : State) (r0 r1 r2 r3 : Nat) : State :=
  { s with
    res := #v[BitVec.ofNat 64 r0, BitVec.ofNat 64 r1, BitVec.ofNat 64 r2, BitVec.ofNat 64 r3]
    busy := false, done := true, raced := [], delay := 0, draws := s.draws + 4 }

/-- The completed state of a command that failed leaving `s` (40_host_interface.md R146): results 0, the
error report, BUSY and DONE, and the model's own `raced`, `delay` and `draws`. -/
def failedWith (s : State) (code : Byte) (info : Nat) : State :=
  { s with
    res := #v[0, 0, 0, 0], err := true, errcode := code, errinfo := BitVec.ofNat 64 info
    busy := false, done := true, raced := [], delay := 0, draws := s.draws + 4 }

/-- The low `n` bits of a number, most significant first (00_scope.md R8). -/
def lowBits (v n : Nat) : List Bool := (List.range n).map fun i => v.testBit (n - 1 - i)

/-- The bits of bytes, MSB-first (30_encoding.md R106). -/
def bitsOf (bs : List Byte) : List Bool := bs.flatMap fun b => lowBits b.toNat 8

/-- The bits an open writer holds in order: bytes in memory, bytes in the chunk, the partial byte
(43_bitstream.md R220). -/
def writerBits (w : Writer) (m : Memory) : List Bool :=
  bitsOf (memBytes m w.wdst.toNat w.wcfl.toNat ++ w.chunk) ++ lowBits w.wacc.toNat w.wnacc.toNat

/-- The bits an open reader has still to return, in order (43_bitstream.md R230, R231). -/
def readerBits (r : Reader) (m : Memory) : List Bool :=
  lowBits r.rbyte.toNat r.rnb.toNat ++
    bitsOf (memBytes m (r.rsrc.toNat + r.rpos.toNat) (r.rlen.toNat - r.rpos.toNat))

/-- The code of a symbol as a bit string, most significant bit first (30_encoding.md R106). -/
def codeBits (l : Vector Byte 256) (x : Byte) : List Bool :=
  lowBits (symbolCode l ⟨x.toNat, x.isLt⟩) (l[x.toNat]'x.isLt).toNat

/-- The bit string of a payload (30_encoding.md R106). -/
def payloadBits (l : Vector Byte 256) (xs : List Byte) : List Bool := xs.flatMap (codeBits l)

/-- How many bytes T bits take (30_encoding.md R106). -/
def bytesFor (bits : Nat) : Nat := (bits + 7) / 8

/-- The lengths FRAME_ENCODE gives a source of `n` bytes: from the tree, or all zero for an empty
source (44_frame_codec.md R260). -/
def frameLengths (f : Vector Word 256) (n : Nat) : Except CmdError (Vector Byte 256) :=
  if n = 0 then .ok (Vector.replicate 256 0) else do treeDepths (← buildTree f)

/-- The frame of the source `xs` under the lengths `l` stands in memory at `addr`: header, padding
count, packed payload (30_encoding.md R105, R106). -/
def FrameAt (m : Memory) (addr : Nat) (l : Vector Byte 256) (xs : List Byte) : Prop :=
  memBytes m addr 268 = frameMagic ++ leBytes 8 xs.length ++ l.toList ∧
  (readByte m (addr + 268)).toNat = 8 * bytesFor (payloadBits l xs).length - (payloadBits l xs).length ∧
  bitsOf (memBytes m (addr + 269) (bytesFor (payloadBits l xs).length)) =
    payloadBits l xs ++
      List.replicate (8 * bytesFor (payloadBits l xs).length - (payloadBits l xs).length) false

/-- What FRAME_ENCODE needs to succeed on a source, with the lengths `l` (44_frame_codec.md R260, R264):
legal ranges, a histogram whose sum is the length and that counts every source byte, no leaf deeper
than 64, room, and admitted bytes. -/
def EncodeReady (s : State) (src len dst cap : Nat) (l : Vector Byte 256) : Prop :=
  src + len ≤ addressLimit ∧ dst + cap ≤ addressLimit ∧ freqSum s.freq = len ∧
  frameLengths s.freq len = .ok l ∧
  (∀ x ∈ memBytes s.mem src len, s.freq[x.toNat]? ≠ some 0) ∧
  269 + bytesFor (payloadBits l (memBytes s.mem src len)).length ≤ cap ∧
  Readable s.params src len ∧
  Writable s.params dst (269 + bytesFor (payloadBits l (memBytes s.mem src len)).length)

/-- A frame of `len` bytes at `src` that decodes to `xs` (44_frame_codec.md R262): its header stores the
size, legal lengths `l` and the padding byte `pad`, and its payload begins with the codes of `xs`. -/
def HoldsFrame (m : Memory) (src len : Nat) (l : Vector Byte 256) (pad : Byte) (xs : List Byte) : Prop :=
  269 ≤ len ∧ xs.length < addressLimit ∧
  memBytes m src 269 = frameMagic ++ leBytes 8 xs.length ++ l.toList ++ [pad] ∧
  (∃ c, assignCodes l = .ok c) ∧
  (∀ x ∈ xs, l[x.toNat]? ≠ some 0) ∧
  payloadBits l xs <+: bitsOf (memBytes m (src + 269) (len - 269))

/-- What FRAME_DECODE needs to succeed on such a frame (44_frame_codec.md R262). -/
def DecodeReady (s : State) (src len dst cap : Nat) (l : Vector Byte 256) (pad : Byte) (xs : List Byte) :
    Prop :=
  src + len ≤ addressLimit ∧ dst + cap ≤ addressLimit ∧ HoldsFrame s.mem src len l pad xs ∧
  xs.length ≤ cap ∧ Readable s.params src len ∧ Writable s.params dst xs.length

/-! ### The fields of the registers -/

/-- Bits [hi:lo] of a word as a number (00_scope.md R8). -/
def field (w : Word) (hi lo : Nat) : Nat := w.toNat / 2 ^ lo % 2 ^ (hi + 1 - lo)

/-- ID, CTRL, CMD, STATUS, ERRINFO, ARG and RES as 10_state.md R22 to R26, R29 and R30 lay them out. -/
def ControlWordsHold (s : State) (read : Reg → Word) : Prop :=
  (s.params.Legal → field (read .id) 7 0 = 1 ∧ field (read .id) 15 8 = 64 ∧
    field (read .id) 31 16 = s.params.pathLen ∧ field (read .id) 47 32 = s.params.maxMembers ∧
    field (read .id) 63 48 = s.params.chunkBytes) ∧
  (field (read .ctrl) 0 0 = 0 ∧ field (read .ctrl) 1 1 = bit s.irqEn ∧ field (read .ctrl) 63 2 = 0) ∧
  (field (read .status) 0 0 = bit s.busy ∧ field (read .status) 1 1 = bit s.done ∧
    field (read .status) 2 2 = bit s.err ∧ field (read .status) 3 3 = bit s.overrun ∧
    field (read .status) 4 4 = bit s.create.partialAdd ∧ field (read .status) 5 5 = bit s.treeValid ∧
    field (read .status) 6 6 = bit s.canonValid ∧ field (read .status) 7 7 = bit s.writer.wopen ∧
    field (read .status) 8 8 = bit s.reader.ropen ∧ field (read .status) 9 9 = bit s.create.archW ∧
    field (read .status) 10 10 = bit s.reading.archR ∧ field (read .status) 15 11 = 0 ∧
    field (read .status) 23 16 = s.errcode.toNat ∧ field (read .status) 63 27 = 0 ∧
    (s.errcode.toNat < 128 → field (read .status) 26 24 = s.errcode.toNat / 16)) ∧
  read .errinfo = s.errinfo ∧ (∀ n, read (.arg n) = s.arg[n]) ∧ (∀ n, read (.res n) = s.res[n])

/-- CMD, CANON_INFO, TREE_INFO and the registers of the units and contexts as 10_state.md R24, R27, R28
and R31 to R37 lay them out. -/
def UnitWordsHold (s : State) (read : Reg → Word) : Prop :=
  read .cmd = 0 ∧
  (field (read .canonInfo) 7 0 = s.canon.maxLen.toNat ∧ field (read .canonInfo) 15 8 = 0 ∧
    field (read .canonInfo) 31 16 = s.canon.nsym.toNat ∧ field (read .canonInfo) 63 32 = 0) ∧
  (field (read .treeInfo) 15 0 = s.tree.nodeCount.toNat ∧
    field (read .treeInfo) 31 16 = s.tree.root.toNat ∧
    field (read .treeInfo) 47 32 = s.tree.active.toNat ∧ field (read .treeInfo) 63 48 = 0) ∧
  (s.writer.wopen = true → read .wPos = s.writer.wpos ∧
    field (read .wAcc) 7 0 = s.writer.wacc.toNat ∧ field (read .wAcc) 10 8 = s.writer.wnacc.toNat ∧
    field (read .wAcc) 63 11 = 0) ∧
  (s.writer.wopen = false → read .wPos = 0 ∧ read .wAcc = 0) ∧
  (s.reader.ropen = true → read .rPos = s.reader.rpos ∧
    field (read .rBuf) 7 0 = s.reader.rbyte.toNat ∧ field (read .rBuf) 11 8 = s.reader.rnb.toNat ∧
    field (read .rBuf) 63 12 = 0) ∧
  (s.reader.ropen = false → read .rPos = 0 ∧ read .rBuf = 0) ∧
  (s.create.archW = true → read .aEnd = s.create.aend ∧ field (read .aCount) 15 0 = s.create.an.toNat ∧
    field (read .aCount) 31 16 = s.create.aslots.toNat) ∧
  (s.create.archW = false → read .aEnd = 0 ∧ field (read .aCount) 31 0 = 0) ∧
  field (read .aCount) 63 32 = s.create.afail.toNat ∧
  (s.reading.archR = true → field (read .aRcount) 31 0 = s.reading.xn.toNat ∧
    field (read .aRcount) 63 32 = 0) ∧
  (s.reading.archR = false → read .aRcount = 0)

/-- The windows as 10_state.md R38 to R45 lay them out. -/
def WindowWordsHold (s : State) (read : Reg → Word) : Prop :=
  (∀ n, read (.freq n) = s.freq[n]) ∧ (∀ n, (read (.len n)).toNat = s.len[n].toNat) ∧
  (∀ n, read (.code n) = s.canon.code[n]) ∧ (∀ n, read (.rowBase n) = s.canon.rowBase[n]) ∧
  (∀ n, field (read (.rowInfo n)) 15 0 = s.canon.rowStart[n].toNat ∧
    field (read (.rowInfo n)) 31 16 = s.canon.rowCount[n].toNat ∧
    field (read (.rowInfo n)) 63 32 = 0) ∧
  (∀ n, n.val < s.tree.nodeCount.toNat → read (.nodeWeight n) = s.tree.weight[n] ∧
    field (read (.nodeLink n)) 15 0 = s.tree.link[n].left.toNat ∧
    field (read (.nodeLink n)) 31 16 = s.tree.link[n].right.toNat ∧
    field (read (.nodeLink n)) 39 32 = s.tree.link[n].symbol.toNat ∧
    field (read (.nodeLink n)) 40 40 = bit s.tree.link[n].isLeaf ∧
    field (read (.nodeLink n)) 63 41 = 0) ∧
  (∀ n, s.tree.nodeCount.toNat ≤ n.val → read (.nodeWeight n) = 0 ∧ read (.nodeLink n) = 0) ∧
  (∀ n, n.val < s.canon.nsym.toNat →
    field (read (.sorted n)) 7 0 = s.canon.sorted[n].symbol.toNat ∧
    field (read (.sorted n)) 15 8 = s.canon.sorted[n].length.toNat ∧
    field (read (.sorted n)) 63 16 = 0) ∧
  (∀ n, s.canon.nsym.toNat ≤ n.val → read (.sorted n) = 0)

/-! ### The tree's shape -/

/-- Node `m` is a child of node `p` (10_state.md R42). -/
def ChildOf (t : Tree) (m : Nat) (p : Fin 511) : Prop :=
  t.link[p].left.toNat = m ∨ t.link[p].right.toNat = m

/-- Node `m` has no parent yet when the internal node `n` is made: it is made before `n`, and is no child
of an internal node made before `n` (41_tree_builder.md R173). -/
def Parentless (t : Tree) (n m : Nat) : Prop :=
  m < n ∧ ∀ p : Fin 511, t.active.toNat ≤ p.val → p.val < n → ¬ChildOf t m p

/-- The key of node `x` is below the key of node `y` (41_tree_builder.md R173). -/
def KeyBelow (t : Tree) (x y : Nat) : Prop :=
  nodeWeight t x < nodeWeight t y ∨ (nodeWeight t x = nodeWeight t y ∧ x < y)

/-! ### Invariants -/

/-- The parameters but for the platform's predicates, which no step changes (00_scope.md R6). -/
abbrev SameInstance (p q : Config.Params) : Prop :=
  p.pathLen = q.pathLen ∧ p.maxMembers = q.maxMembers ∧ p.chunkBytes = q.chunkBytes ∧
    p.mmioBase = q.mmioBase

/-- STATUS is consistent (10_state.md R25, 40_host_interface.md R143): while BUSY neither DONE nor ERR
is set, without ERR there is no code and no detail, and with ERR the code is one of 60_exceptions.md
R320. -/
def StatusConsistent (s : State) : Prop :=
  (s.busy = true → s.done = false ∧ s.err = false) ∧
  (s.err = false → s.errcode = 0 ∧ s.errinfo = 0) ∧
  (s.err = true → ∃ c : ErrCode, s.errcode = c.byte)

/-- TREE_VALID: "The node arena holds a tree built from the current FREQ table" (10_state.md R25). -/
def TreeCurrent (s : State) : Prop := s.treeValid = true → buildTree s.freq = .ok s.tree

/-- CANON_VALID: "CODE, SORTED and the rows were derived from the current LEN table" (10_state.md R25). -/
def CanonCurrent (s : State) : Prop := s.canonValid = true → assignCodes s.len = .ok s.canon

/-- The writer's invariants (43_bitstream.md R220): closed means all zero, and open means
`WCFL + |CHUNK| = WPOS ≤ WCAP`, `|CHUNK| < CHUNK_BYTES`, a partial byte of WNACC bits, and a
destination inside the address space. -/
def WriterSound (p : Config.Params) (w : Writer) : Prop :=
  (w.wopen = false → w = Writer.closed) ∧
  (w.wopen = true →
    w.wcfl.toNat + w.chunk.length = w.wpos.toNat ∧ w.wpos.toNat ≤ w.wcap.toNat ∧
    w.chunk.length < p.chunkBytes ∧ w.wacc.toNat < 2 ^ w.wnacc.toNat ∧
    w.wdst.toNat + w.wcap.toNat ≤ addressLimit)

/-- The reader's invariants (43_bitstream.md R230): closed means all zero, and open means
`RPOS ≤ RLEN`, `RNB ≤ 8` and a source inside the address space. -/
def ReaderSound (r : Reader) : Prop :=
  (r.ropen = false → r = Reader.closed) ∧
  (r.ropen = true →
    r.rpos.toNat ≤ r.rlen.toNat ∧ r.rnb.toNat ≤ 8 ∧ r.rsrc.toNat + r.rlen.toNat ≤ addressLimit)

/-- The creation context's invariants (45_archive.md R280-R283): closed means all zero but AFAIL and
PARTIAL, and open means AN ≤ ASLOTS ≤ MAX_MEMBERS, one record a member, `9 + M*E ≤ AEND ≤ ACAP` and
an archive inside the address space; PARTIAL is set exactly when AFAIL counts a failure. -/
def CreateSound (p : Config.Params) (c : Create) : Prop :=
  (c.archW = false → c = { Create.zero with afail := c.afail, partialAdd := c.partialAdd }) ∧
  (c.archW = true →
    c.an.toNat ≤ c.aslots.toNat ∧ c.aslots.toNat ≤ p.maxMembers ∧ c.ram.length = c.an.toNat ∧
    (∀ e ∈ c.ram, e.path.length = p.pathLen) ∧
    Config.archHdr + c.aslots.toNat * p.entryLen ≤ c.aend.toNat ∧ c.aend.toNat ≤ c.acap.toNat ∧
    c.abase.toNat + c.acap.toNat ≤ addressLimit) ∧
  (c.partialAdd = true ↔ c.afail ≠ 0)

/-- The reading context's invariants (45_archive.md R280, R284): closed means all zero, and open means
the table fits the archive and the archive the address space. -/
def ReadingSound (p : Config.Params) (r : Reading) : Prop :=
  (r.archR = false → r = Reading.closed) ∧
  (r.archR = true →
    Config.archHdr + r.xn.toNat * p.entryLen ≤ r.xlen.toNat ∧
    r.xbase.toNat + r.xlen.toNat ≤ addressLimit)

/-- The units and contexts of a state are sound. -/
def UnitsSound (s : State) : Prop :=
  WriterSound s.params s.writer ∧ ReaderSound s.reader ∧ CreateSound s.params s.create ∧
    ReadingSound s.params s.reading

end Sys2Proof.Machine
end

