-- ==== Sys2Proof/Certificates/Slice0/Obligations.lean ====
section
/-! DEFINITION. The statements for the provers. Each docstring names the rules of the spec the statement formalises. -/

open Sys2Proof Sys2Proof.Machine

/-! ### Reset and the register window -/

/-- 10_state.md R50, 70_reset_and_hazards.md R350: after reset ID holds its constant, every other register
and window entry reads 0, the hidden state is 0, the chunk buffer and the entry RAM are empty, and the
interrupt output is 0. (The default parameters in ID are log 1; memory's content is log 2.) -/
def Obligations.ResetReadsZeroButForId : Prop :=
  regValue State.reset .id = 0x1000010001004001 ∧
  (∀ r, r ≠ .id → regValue State.reset r = 0) ∧
  State.reset.latch = { op := 0, a := #v[0, 0, 0, 0] } ∧
  State.reset.writer = Writer.closed ∧ State.reset.reader = Reader.closed ∧
  State.reset.create = Create.zero ∧ State.reset.reading = Reading.closed ∧
  State.reset.freq = Vector.replicate 256 0 ∧ State.reset.len = Vector.replicate 256 0 ∧
  State.reset.tree = Tree.zero ∧ State.reset.canon = Canon.zero ∧ State.reset.irq = false

/-- 10_state.md R21: the register map is exact: an offset is mapped to a register exactly when it is that
register's offset, so no two registers share an offset and no other offset is mapped. -/
def Obligations.RegisterMapIsExact : Prop :=
  ∀ off r, regAt off = some r ↔ off = offsetOf r

/-- 40_host_interface.md R140: an access of the register window that is not 64 bits wide, or whose offset
is no multiple of 8 or unmapped, is answered with a bus error and changes nothing else; every other
access is accepted. While the reset input is asserted every access is ignored and changes nothing
(70_reset_and_hazards.md R350; that the model answers it `ignored` is log 22). -/
def Obligations.AccessAcceptedIffAlignedAndMapped : Prop :=
  ∀ (s : State) (bytes addr : Nat) (v : Word), inWindow s.params addr = true →
    let accepted := bytes = 8 ∧ (addr - s.params.mmioBase) % 8 = 0 ∧
      ∃ r, offsetOf r = addr - s.params.mmioBase
    (s.resetHeld = true →
      hostAct s (.mmioRead bytes addr) = .next { s with responses := s.responses ++ [.ignored] } ∧
      hostAct s (.mmioWrite bytes addr v) = .next { s with responses := s.responses ++ [.ignored] }) ∧
    (s.resetHeld = false → ¬accepted →
      hostAct s (.mmioRead bytes addr) = .next { s with responses := s.responses ++ [.busError] } ∧
      hostAct s (.mmioWrite bytes addr v) = .next { s with responses := s.responses ++ [.busError] }) ∧
    (∀ r, s.resetHeld = false → bytes = 8 → offsetOf r = addr - s.params.mmioBase →
      (∃ t, hostAct s (.mmioRead bytes addr) = .next t ∧
        t = { s with responses := s.responses ++ [.data (readReg s r)], draws := t.draws }) ∧
      (∃ t, hostAct s (.mmioWrite bytes addr v) = .next t ∧
        t = { writeReg s r v with responses := s.responses ++ [.accepted] }))

/-- 40_host_interface.md R141, 10_state.md R22 to R45, 60_exceptions.md R322: what register reads return.
While BUSY = 0 every register and window entry reads its fields as 10_state.md lays them out, ERRKIND
being ERRCODE[7:4]. While BUSY = 1 ID, CTRL, STATUS, ERRINFO and ARG read their current values and RES
the value `res` holds; every other register reads a free word. (For CMD, which R24 says reads 0, the free
word is log 13, DEDUCED: the model's reading of R141 over R24.) Reading changes nothing but the answers
and the model's own `draws`. -/
def Obligations.ReadsWhileBusy : Prop :=
  ∀ s : State, ControlWordsHold s (readReg s) ∧
    (s.busy = false → UnitWordsHold s (readReg s) ∧ WindowWordsHold s (readReg s)) ∧
    (s.busy = true →
      ∀ r, r ≠ .id → r ≠ .ctrl → r ≠ .status → r ≠ .errinfo → (∀ n, r ≠ .arg n) →
        (∀ n, r ≠ .res n) → readReg s r = Config.freeWord s.draws) ∧
    (∀ bytes addr, ∃ t, hostAct s (.mmioRead bytes addr) = .next t ∧
      t = { s with responses := t.responses, draws := t.draws })

/-- 40_host_interface.md R142: a write of STATUS clears exactly the flags of DONE, ERR and OVERRUN written
as 1, and clearing ERR clears ERRCODE, ERRKIND and ERRINFO. -/
def Obligations.StatusWriteClearsFlags : Prop :=
  ∀ (s : State) (v : Word), writeReg s .status v =
    { s with
      done := s.done && !v.getLsbD 1
      err := s.err && !v.getLsbD 2
      errcode := if v.getLsbD 2 then 0 else s.errcode
      errinfo := if v.getLsbD 2 then 0 else s.errinfo
      overrun := s.overrun && !v.getLsbD 3 }

/-- 40_host_interface.md R142, 10_state.md R38, R39, R29: what writes of ARG, FREQ, LEN and the read-only
registers do. While BUSY = 1 a FREQ, LEN or CMD write only sets OVERRUN. A FREQ write clears TREE_VALID,
a LEN write stores value[7:0] and clears CANON_VALID. -/
def Obligations.TableWritesObeyBusy : Prop :=
  (∀ (s : State) (v : Word) n, writeReg s (.arg n) v = { s with arg := s.arg.set n v }) ∧
  (∀ (s : State) (v : Word) n, s.busy = false →
    writeReg s (.freq n) v = { s with freq := s.freq.set n v, treeValid := false } ∧
    writeReg s (.len n) v =
      { s with len := s.len.set n (BitVec.ofNat 8 v.toNat), canonValid := false }) ∧
  (∀ (s : State) (v : Word) n, s.busy = true →
    writeReg s (.freq n) v = { s with overrun := true } ∧
    writeReg s (.len n) v = { s with overrun := true } ∧
    writeReg s .cmd v = { s with overrun := true }) ∧
  (∀ (s : State) (v : Word) r, r ≠ .ctrl → r ≠ .cmd → r ≠ .status → (∀ n, r ≠ .arg n) → (∀ n, r ≠ .freq n) →
    (∀ n, r ≠ .len n) → writeReg s r v = s)

/-- 40_host_interface.md R143: a CMD write while BUSY = 0 loads the latch from the word and ARG0-ARG3,
raises BUSY, clears DONE and the error report, and drops the interrupt; nothing else changes but the
model's own `delay`, `raced` and `draws`. -/
def Obligations.CmdWriteIssues : Prop :=
  ∀ (s : State) (w : Word), s.busy = false → ∃ t, writeReg s .cmd w = t ∧ t.irq = false ∧
    t = { s with
      latch := { op := w, a := s.arg }, busy := true, done := false, err := false
      errcode := 0, errinfo := 0, delay := t.delay, raced := [], draws := s.draws + 1 }

/-- 70_reset_and_hazards.md R350, R351, 10_state.md R23: a CTRL write with bit 0 set puts every piece of
engine state at its reset value, busy or not, ignores bit 1, keeps the parameters, and leaves memory
outside the running command's write range as it was. With bit 0 clear it only sets IRQ_EN. The reset
input does the same to the engine and holds it; memory is as it was while the engine is idle or its word
is illegal, and of a running command it changes at most the bytes that command stores when run to its
end or until it raises an error (`storedBy`, log 12: DESIGN CHOICE), which lie in its write range; none,
where the command stores none. Releasing it only lets go. -/
def Obligations.CtrlWriteResetsOrEnables : Prop :=
  (∀ (s : State) (v : Word), v.getLsbD 0 = true → s.mem.wf → ∃ t, writeReg s .ctrl v = t ∧
    t = { State.reset with
      mem := t.mem, params := s.params, resetHeld := s.resetHeld, inputs := s.inputs
      responses := s.responses, draws := t.draws } ∧
    (s.busy = false → t.mem = s.mem) ∧
    ∀ a, (∀ i, decode s.latch.op = .ok i → inRanges (writeRanges i s) a = false) →
      readByte t.mem a = readByte s.mem a) ∧
  (∀ (s : State) (v : Word), v.getLsbD 0 = false → writeReg s .ctrl v = { s with irqEn := v.getLsbD 1 }) ∧
  (∀ s : State, s.mem.wf → ∃ t, hostAct s .assertReset = .next t ∧
    t = { State.reset with
      mem := t.mem, params := s.params, resetHeld := true, inputs := s.inputs
      responses := s.responses, draws := t.draws } ∧
    (s.busy = false → t.mem = s.mem) ∧ ((∀ i, decode s.latch.op ≠ .ok i) → t.mem = s.mem) ∧
    (∀ i a, decode s.latch.op = .ok i → inRange (storedBy i s) a = false →
      readByte t.mem a = readByte s.mem a) ∧
    (∀ i a, decode s.latch.op = .ok i → s.params.Legal → UnitsSound s →
      inRanges (writeRanges i s) a = false → readByte t.mem a = readByte s.mem a) ∧
    (∀ i, decode s.latch.op = .ok i → contextPresent i s = false ∨ writeRanges i s = [] →
      t.mem = s.mem)) ∧
  (∀ s : State, hostAct s .releaseReset = .next { s with resetHeld := false })

/-! ### Decoding and the step -/

/-- 30_encoding.md R100, R103: decoding the encoding of a command gives it back, and no other word of the
2^64 decodes to it. -/
def Obligations.DecodeAndEncodeAgree : Prop :=
  (∀ i, decode (encode i) = .ok i) ∧ ∀ w i, decode w = .ok i → w = encode i

/-- 30_encoding.md R103: the command words written out from the opcode map decode to their commands. -/
def Obligations.OpcodeMapDecodes : Prop :=
  decode 0x00 = .ok .nop ∧ decode 0x10 = .ok .freqClear ∧ decode 0x11 = .ok .freqLoad ∧
  decode 0x12 = .ok .treeBuild ∧ decode 0x13 = .ok .treeLengths ∧ decode 0x20 = .ok .canonAssign ∧
  decode 0x30 = .ok .bwOpen ∧ decode 0x31 = .ok .bwWrite ∧ decode 0x32 = .ok .bwSym ∧
  decode 0x33 = .ok .bwFlush ∧ decode 0x34 = .ok .brOpen ∧ decode 0x35 = .ok .brReadbit ∧
  decode 0x36 = .ok .brSym ∧ decode 0x37 = .ok .brClose ∧ decode 0x40 = .ok .frameEncode ∧
  decode 0x41 = .ok .frameDecode ∧ decode 0x50 = .ok .archBegin ∧ decode 0x51 = .ok .archAdd ∧
  decode 0x52 = .ok .archEnd ∧ decode 0x53 = .ok .archOpen ∧ decode 0x54 = .ok .archEntry ∧
  decode 0x55 = .ok .archFind ∧ decode 0x56 = .ok .archExtract

/-- 40_host_interface.md R144: when the engine's turn comes and the latched word decodes to a command, the
step is that command's execution and nothing is added around it. Three clauses are the model's choices:
when the turn comes (the delay is over, or the host has no input but WAIT, and otherwise the step serves
the next input: log 4, DEDUCED and DESIGN CHOICE); that `withFetchWord` places a word so that the very
next step runs it (log 5, DESIGN CHOICE); that an idle block with no input stays as it is (log 6, DEDUCED
from 70_reset_and_hazards.md R361). -/
def Obligations.StepPerformsTheLatchedCommand : Prop :=
  (∀ (s : State) (i : Instr), s.busy = true → (s.delay = 0 ∨ s.inputs = [] ∨ ∃ rest, s.inputs = .wait :: rest) →
    decode s.latch.op = .ok i → step s = exec i s) ∧
  (∀ (s : State) (nbits w : Nat) (i : Instr), decodeTableWord nbits w = some i →
    step (s.withFetchWord nbits w) = exec i (s.withFetchWord nbits w)) ∧
  (∀ (s : State) (op : HostOp) (rest : List HostOp), s.inputs = op :: rest → (s.busy = false ∨ (s.delay ≠ 0 ∧ op ≠ .wait)) →
    step s = hostAct { s with inputs := rest, delay := s.delay - 1 } op) ∧
  (∀ s : State, s.busy = false → s.inputs = [] → step s = .next s)

/-- 40_host_interface.md R147, 30_encoding.md R100: a word with a reserved bit set or an unassigned opcode
completes with ParamError BAD_OPCODE (0x51) and the whole word in ERRINFO, and changes no other state. Any
other word is a command's, and the engine runs it. (When the engine's turn comes is log 4 and log 27; the
statement is about what it then does.) -/
def Obligations.IllegalWordIsBadOpcode : Prop :=
  ∀ s : State, engineTurn s = true →
    let legal := s.latch.op.extractLsb' 8 56 = 0 ∧ (s.latch.op.extractLsb' 0 8).toNat ∈
      [0x00, 0x10, 0x11, 0x12, 0x13, 0x20, 0x30, 0x31, 0x32, 0x33, 0x34, 0x35, 0x36, 0x37, 0x40, 0x41,
       0x50, 0x51, 0x52, 0x53, 0x54, 0x55, 0x56]
    (¬legal → step s = .next (failedWith s 0x51 s.latch.op.toNat)) ∧
    (legal → ∃ i, s.latch.op = encode i ∧ step s = exec i s)

/-- The model's own reading of 70_reset_and_hazards.md R361 and 20_memory.md R71 (DEDUCED, log 29): no step
is refused, and a step faults exactly when it serves a host access of system memory at or above 2^64. -/
def Obligations.StepStopsOnlyOutsideTheAddressSpace : Prop :=
  (∀ s : State, (∃ t, step s = .next t) ∨
    (∃ a rest, addressLimit ≤ a ∧ step s = .fault (.noSuchAddress a) ∧
      (s.inputs = .memRead a :: rest ∨ ∃ b, s.inputs = .memWrite a b :: rest))) ∧
  (∀ (s : State) (a : Nat) (rest : List HostOp), engineTurn s = false → addressLimit ≤ a →
    (s.inputs = .memRead a :: rest ∨ ∃ b, s.inputs = .memWrite a b :: rest) →
    step s = .fault (.noSuchAddress a))

/-- 20_memory.md R82, R83: host accesses to system memory. Outside a running command's ranges a read
returns the byte and a write stores it, and every other byte keeps its value; inside them a read
returns a free byte and a write leaves the byte free. (At an address whose reading has a side effect the
host's read is free too: log 14, DESIGN CHOICE, the model's.) -/
def Obligations.HostMemoryAccesses : Prop :=
  ∀ (s : State) (a : Nat) (b : Byte), a < addressLimit → s.mem.wf →
    (∃ t, hostAct s (.memWrite a b) = .next t ∧ (∀ x, x ≠ a → readByte t.mem x = readByte s.mem x) ∧
      t = { s with mem := t.mem, raced := t.raced, draws := t.draws } ∧
      (inRunningRanges s a = false → readByte t.mem a = b ∧ t.raced = s.raced) ∧
      (inRunningRanges s a = true → readByte t.mem a = Config.freeByte s.draws a ∧ a ∈ t.raced)) ∧
    (∃ t x, hostAct s (.memRead a) = .next t ∧
      t = { s with responses := s.responses ++ [.byte x], draws := t.draws } ∧
      (inRunningRanges s a = false → inRanges s.params.sideRead a = false → x = readByte s.mem a) ∧
      (inRunningRanges s a = true ∨ inRanges s.params.sideRead a = true →
        x = Config.freeByte s.draws a))

/-! ### All commands: completion, errors, frames -/

/-- 40_host_interface.md R144-R146, R149: every command completes in one way or the other, from every
state: BUSY is 0, DONE is 1, and the interrupt output is then IRQ_EN (60_exceptions.md R330). -/
def Obligations.EveryCommandCompletes : Prop :=
  ∀ (i : Instr) (s : State), ∃ t, exec i s = .next t ∧ t.busy = false ∧ t.done = true ∧ t.irq = s.irqEn ∧
    (s.err = false → (t.err = true ∧ t.res = #v[0, 0, 0, 0] ∧ ∃ c : ErrCode, t.errcode = c.byte) ∨
      (t.err = false ∧ t.errcode = s.errcode ∧ t.errinfo = s.errinfo))

/-- 10_state.md R29, R47, R49 and 40_host_interface.md R150: no command changes ARG, the latch, IRQ_EN,
OVERRUN, the parameters, the inputs, the answers or the reset input. -/
def Obligations.CommandsKeepTheHostSide : Prop :=
  ∀ (i : Instr) (s t : State), exec i s = .next t →
    t.arg = s.arg ∧ t.latch = s.latch ∧ t.irqEn = s.irqEn ∧ t.overrun = s.overrun ∧
    t.params = s.params ∧ t.inputs = s.inputs ∧ t.responses = s.responses ∧ t.resetHeld = s.resetHeld

/-- The frame of every command over the engine's tables, units and contexts (each rule's "Writes"; 10_state.md
R40-R45 "Only ... writes it"): FREQ is written by FREQ_CLEAR and FREQ_LOAD; the arena by TREE_BUILD,
FRAME_ENCODE and ARCH_ADD; LEN by TREE_LENGTHS and the frame and archive codecs; the canonical tables by
CANON_ASSIGN and those codecs; the writer by BW_* and the encoders; the reader by BR_* and the decoders;
the creation context by ARCH_BEGIN, ARCH_ADD, ARCH_END; the reading context by ARCH_OPEN. -/
def Obligations.CommandsWriteOnlyTheirUnits : Prop :=
  ∀ (i : Instr) (s t : State), exec i s = .next t →
    (i ∉ [.freqClear, .freqLoad] → t.freq = s.freq) ∧
    (i ∉ [.treeBuild, .frameEncode, .archAdd] → t.tree = s.tree) ∧
    (i ∉ [.freqClear, .freqLoad, .treeBuild, .frameEncode, .archAdd] → t.treeValid = s.treeValid) ∧
    (i ∉ [.treeLengths, .frameEncode, .frameDecode, .archAdd, .archExtract] → t.len = s.len) ∧
    (i ∉ [.canonAssign, .frameEncode, .frameDecode, .archAdd, .archExtract] → t.canon = s.canon) ∧
    (i ∉ [.treeLengths, .canonAssign, .frameEncode, .frameDecode, .archAdd, .archExtract] →
      t.canonValid = s.canonValid) ∧
    (i ∉ [.bwOpen, .bwWrite, .bwSym, .bwFlush, .frameEncode, .archAdd] → t.writer = s.writer) ∧
    (i ∉ [.brOpen, .brReadbit, .brSym, .brClose, .frameDecode, .archExtract] → t.reader = s.reader) ∧
    (i ∉ [.archBegin, .archAdd, .archEnd] → t.create = s.create) ∧
    (i ≠ .archOpen → t.reading = s.reading)

/-- 20_memory.md R72, R89: no command changes a byte of memory outside its write range, and "Every other
command touches no system memory": a command without a write range leaves memory exactly as it was. A
failed BW_OPEN may change the range of the writer it closes (43_bitstream.md R238, log 10), and a failed
ARCH_END the archive so far (45_archive.md R283); `failureRanges` names those. A command that completes
without a race changes only the bytes it stores. The units and contexts are sound, as every reachable
state's are (`StepKeepsUnitsSound`). -/
def Obligations.CommandsWriteOnlyTheirRanges : Prop :=
  (∀ (i : Instr) (s t : State) (a : Nat), s.mem.wf → s.params.Legal → UnitsSound s →
    exec i s = .next t → inRanges (writeRanges i s) a = false → inRanges (failureRanges i s) a = false →
    readByte t.mem a = readByte s.mem a) ∧
  (∀ (i : Instr) (s t : State) (d : Done) (a : Nat), s.mem.wf → s.params.Legal → UnitsSound s →
    RaceFree s → contextPresent i s = true → bodyOf i s = .ok d → exec i s = .next t →
    inRange (storedBy i s) a = false → readByte t.mem a = readByte s.mem a) ∧
  (∀ (i : Instr) (s t : State), exec i s = .next t →
    i ∈ [.nop, .freqClear, .freqLoad, .treeBuild, .treeLengths, .canonAssign, .brOpen, .brReadbit, .brSym,
      .brClose, .archOpen, .archEntry, .archFind] →
    t.mem = s.mem)

/-- 40_host_interface.md R152: a command whose required context is absent fails with NO_STATE (0x57) and
its opcode, and changes nothing else; a command whose context is present, or that requires none, never
fails with NO_STATE. -/
def Obligations.MissingContextIsNoState : Prop :=
  ∀ (i : Instr) (s : State),
    let absent :=
      (i = .treeLengths ∧ s.treeValid = false) ∨
      (i ∈ [.bwWrite, .bwFlush, .bwSym] ∧ s.writer.wopen = false) ∨
      (i ∈ [.bwSym, .brSym] ∧ s.canonValid = false) ∨
      (i ∈ [.brReadbit, .brSym] ∧ s.reader.ropen = false) ∨
      (i ∈ [.archAdd, .archEnd] ∧ s.create.archW = false) ∨
      (i ∈ [.archEntry, .archFind, .archExtract] ∧ s.reading.archR = false)
    (absent → exec i s = .next (failedWith s 0x57 (opcodeOf i).toNat)) ∧
    (¬absent → s.errcode ≠ 0x57 → ∀ t, exec i s = .next t → t.errcode ≠ 0x57)

/-- 60_exceptions.md R321: "Simple commands (FREQ_LOAD, TREE_BUILD, TREE_LENGTHS, CANON_ASSIGN) therefore have
no effect at all when they fail" but the error report. -/
def Obligations.SimpleCommandsFailWithoutEffect : Prop :=
  ∀ (i : Instr) (s t : State), i ∈ [.freqLoad, .treeBuild, .treeLengths, .canonAssign] → s.err = false →
    exec i s = .next t → t.err = true →
    t = { s with
      res := #v[0, 0, 0, 0], err := true, errcode := t.errcode, errinfo := t.errinfo
      busy := false, done := true, raced := [], delay := 0, draws := s.draws + 4 }

/-- 60_exceptions.md R327, 43_bitstream.md R238: a failed BW_* command whose context was present closes the
writer, a failed BR_* command the reader; FRAME_ENCODE and ARCH_ADD always leave the writer closed,
FRAME_DECODE and ARCH_EXTRACT the reader. -/
def Obligations.FailuresCloseTheStreamUnits : Prop :=
  ∀ (i : Instr) (s t : State), s.err = false → contextPresent i s = true → exec i s = .next t →
    (i ∈ [.bwOpen, .bwWrite, .bwSym, .bwFlush] → t.err = true → t.writer = Writer.closed) ∧
    (i ∈ [.brOpen, .brReadbit, .brSym, .brClose] → t.err = true → t.reader = Reader.closed) ∧
    (i ∈ [.frameEncode, .archAdd] → t.writer = Writer.closed) ∧
    (i ∈ [.frameDecode, .archExtract] → t.reader = Reader.closed)

/-- 20_memory.md R75: an address and a length that together pass 2^64 fail with BAD_RANGE (0x58) and the
index of the address argument; ERR comes before any access, so memory keeps every byte (for BW_OPEN see
log 10, for the commands' later checks R324). -/
def Obligations.PassingTheAddressSpaceIsBadRange : Prop :=
  ∀ (i : Instr) (s : State) (index : Word), s.err = false → contextPresent i s = true →
    ((i = .freqLoad ∧ addressLimit < a0 s + 2048 ∧ index = 0) ∨
     (i ∈ [.bwOpen, .brOpen, .frameEncode, .frameDecode, .archBegin, .archAdd, .archOpen, .archFind] ∧
       addressLimit < a0 s + a1 s ∧ index = 0) ∨
     (i ∈ [.frameEncode, .frameDecode, .archAdd] ∧ a0 s + a1 s ≤ addressLimit ∧
       addressLimit < a2 s + a3 s ∧ index = 2) ∨
     (i = .archExtract ∧ addressLimit < a1 s + a2 s ∧ index = 1)) →
    ∃ t, exec i s = .next t ∧ t.err = true ∧ t.errcode = 0x58 ∧ t.errinfo = index ∧
      (i ≠ .bwOpen → t.mem = s.mem)

/-! ### Control and the tree builder -/

/-- 40_host_interface.md R148: NOP completes with results 0 and changes nothing else. -/
def Obligations.NopCompletes : Prop :=
  ∀ s : State, exec .nop s = .next (finished s 0 0 0 0)

/-- 41_tree_builder.md R170: FREQ_CLEAR completes with every FREQ entry 0 and TREE_VALID 0; nothing else
changes. -/
def Obligations.FreqClearCompletes : Prop :=
  ∀ s : State, exec .freqClear s =
    .next (finished { s with freq := Vector.replicate 256 0, treeValid := false } 0 0 0 0)

/-- 41_tree_builder.md R171, 30_encoding.md R110: FREQ_LOAD of a readable table completes with FREQ[k] the
little-endian count at offset 8k and TREE_VALID 0; nothing else changes. A byte the host wrote during the
command counts as a free byte, not as the one memory then holds (20_memory.md R83). At the first byte
that may not be read it fails with IO_READ (0x11) and that address. -/
def Obligations.FreqLoadReadsTheTable : Prop :=
  ∀ s : State, a0 s + 2048 ≤ addressLimit →
    (Readable s.params (a0 s) 2048 → ∃ f : Vector Word 256,
      exec .freqLoad s = .next (finished { s with freq := f, treeValid := false } 0 0 0 0) ∧
      ∀ k : Fin 256, f[k].toNat =
        ((List.range 8).map fun j =>
          (if a0 s + 8 * k.val + j ∈ s.raced then Config.freeByte s.draws (a0 s + 8 * k.val + j)
           else readByte s.mem (a0 s + 8 * k.val + j)).toNat * 256 ^ j).sum) ∧
    (∀ n, n < 2048 → (∀ k, k < n → admits s.params.admitR (a0 s + k) = true) →
      admits s.params.admitR (a0 s + n) = false →
      exec .freqLoad s = .next (failedWith s 0x11 (a0 s + n)))

/-- 41_tree_builder.md R172-R175: TREE_BUILD on a table whose sum is below 2^64 and that has k ≥ 1 active
symbols completes with 2k-1 nodes, root 2k-2 and root weight the sum; nodes 0..k-1 are the leaves of the
active symbols in ascending order; every other node has children below it whose weights add to its own;
entries past the last node are 0; nothing but the tree and TREE_VALID changes. -/
def Obligations.TreeBuildCompletes : Prop :=
  ∀ (s : State) (k : Nat), freqSum s.freq < addressLimit → k = (s.freq.toList.filter (· ≠ 0)).length → 0 < k →
    ∃ t : Tree, exec .treeBuild s = .next
        (finished { s with tree := t, treeValid := true } k (2 * k - 2) (freqSum s.freq) (2 * k - 1)) ∧
      t.nodeCount.toNat = 2 * k - 1 ∧ t.root.toNat = 2 * k - 2 ∧ t.active.toNat = k ∧
      (∀ n : Fin 511, n.val < k →
        t.link[n].isLeaf = true ∧ t.link[n].left = 0xFFFF ∧ t.link[n].right = 0xFFFF ∧
        (s.freq[t.link[n].symbol.toNat]? = some t.weight[n]) ∧ t.weight[n] ≠ 0) ∧
      (∀ n m : Fin 511, n.val < m.val → m.val < k →
        t.link[n].symbol.toNat < t.link[m].symbol.toNat) ∧
      (∀ n : Fin 511, k ≤ n.val → n.val < 2 * k - 1 →
        t.link[n].isLeaf = false ∧ t.link[n].symbol = 0 ∧
        t.link[n].left.toNat < n.val ∧ t.link[n].right.toNat < n.val ∧
        t.weight[n].toNat =
          nodeWeight t t.link[n].left.toNat + nodeWeight t t.link[n].right.toNat) ∧
      (∀ n : Fin 511, 2 * k - 1 ≤ n.val → t.weight[n] = 0 ∧ t.link[n] = Link.zero)

/-- 41_tree_builder.md R173, R175: each merge takes the two smallest keys (weight, id) of the nodes that
have no parent yet, the smallest as LEFT and the next as RIGHT; every node but the root is the child of
exactly one node, and the root of none; "The weights of internal nodes never decrease with their id". -/
def Obligations.TreeWeightsNeverDecrease : Prop :=
  ∀ f t, buildTree f = .ok t →
    (∀ n : Fin 511, t.active.toNat ≤ n.val → n.val < t.nodeCount.toNat →
      Parentless t n.val t.link[n].left.toNat ∧ Parentless t n.val t.link[n].right.toNat ∧
      KeyBelow t t.link[n].left.toNat t.link[n].right.toNat ∧
      ∀ m, Parentless t n.val m → m ≠ t.link[n].left.toNat → m ≠ t.link[n].right.toNat →
        KeyBelow t t.link[n].right.toNat m) ∧
    (∀ m, m < t.nodeCount.toNat → m ≠ t.root.toNat → ∃ p : Fin 511,
      (t.active.toNat ≤ p.val ∧ p.val < t.nodeCount.toNat ∧ ChildOf t m p) ∧
      ∀ q : Fin 511, t.active.toNat ≤ q.val → q.val < t.nodeCount.toNat → ChildOf t m q → q = p) ∧
    (∀ q : Fin 511, t.active.toNat ≤ q.val → q.val < t.nodeCount.toNat → ¬ChildOf t t.root.toNat q) ∧
    (∀ n m : Fin 511, t.active.toNat ≤ n.val → n.val ≤ m.val → m.val < t.nodeCount.toNat →
      t.weight[n].toNat ≤ t.weight[m].toNat)

/-- 41_tree_builder.md R174, errors: a sum of 2^64 or more is FREQ_OVERFLOW (0x54), no active symbol is
EMPTY_INPUT (0x53); nothing else changes. -/
def Obligations.TreeBuildRefusesEmptyAndOverflow : Prop :=
  ∀ s : State, (addressLimit ≤ freqSum s.freq → exec .treeBuild s = .next (failedWith s 0x54 0)) ∧
    ((∀ k : Fin 256, s.freq[k] = 0) → exec .treeBuild s = .next (failedWith s 0x53 0))

/-- 41_tree_builder.md R176, R178: TREE_LENGTHS on a current tree whose leaves are at most 64 deep completes:
LEN[k] is nonzero exactly for the active symbols, RES0 is the largest length, RES1 the number of active
symbols, CANON_VALID is 0, nothing else changes; with one active symbol its length is 1. On a deeper
tree it fails with CODE_TOO_LONG (0x25) and the smallest such symbol, and changes nothing else. -/
def Obligations.TreeLengthsCompletes : Prop :=
  ∀ s : State, s.treeValid = true → buildTree s.freq = .ok s.tree →
    let depth := fun k : Nat =>
      symbolDepth s.tree (leafDepths s.tree 512 s.tree.root.toNat 0) (BitVec.ofNat 8 k)
    ((∀ k, k < 256 → depth k ≤ 64) → ∃ l : Vector Byte 256,
      exec .treeLengths s = .next
        (finished { s with len := l, canonValid := false } (maxLength l) s.tree.active.toNat 0 0) ∧
      (∀ k : Fin 256, l[k].toNat = depth k.val ∧ (l[k] = 0 ↔ s.freq[k] = 0)) ∧
      (s.tree.active = 1 → ∀ k : Fin 256, s.freq[k] ≠ 0 → l[k] = 1)) ∧
    (∀ k, k < 256 → 64 < depth k → (∀ j, j < k → depth j ≤ 64) →
      exec .treeLengths s = .next (failedWith s 0x25 k))

/-- 41_tree_builder.md R179: the lengths TREE_LENGTHS writes satisfy `sum of 2^(-LEN[s]) = 1` for k ≥ 2 and
1/2 for k = 1 (here times 2^64), so CANON_ASSIGN never fails on them. -/
def Obligations.TreeLengthsMeetKraft : Prop :=
  ∀ f t l, buildTree f = .ok t → treeDepths t = .ok l →
    ((l.toList.filter (· ≠ 0)).map fun b => 2 ^ (64 - b.toNat)).sum =
      (if t.active = 1 then 2 ^ 63 else 2 ^ 64) ∧
    ∃ c, assignCodes l = .ok c

/-! ### The canonical assigner -/

/-- 42_canonical.md R200, R202, R203: CANON_ASSIGN on lengths of at most 64 that pass the Kraft check at
every length completes: RES0 = NSYM, RES1 = MAX_LEN, CANON_VALID is 1 and only the canonical tables
change. `first` is the recurrence of R200; the codes of one length count up from it in symbol order, and
each row holds its base, start and count. -/
def Obligations.CanonAssignCompletes : Prop :=
  ∀ (s : State) (first : Nat → Nat), (∀ k : Fin 256, s.len[k].toNat ≤ 64) → first 0 = 0 →
    (∀ n, first (n + 1) = (first n + if n = 0 then 0 else lengthCount s.len n) * 2) →
    (∀ n, 1 ≤ n → n ≤ 64 → first n + lengthCount s.len n ≤ 2 ^ n) →
    ∃ c : Canon, exec .canonAssign s = .next
        (finished { s with canon := c, canonValid := true } c.nsym.toNat c.maxLen.toNat 0 0) ∧
      c.nsym.toNat = (s.len.toList.filter (· ≠ 0)).length ∧
      c.maxLen.toNat = s.len.toList.foldl (fun m b => max m b.toNat) 0 ∧
      (∀ k : Fin 256, s.len[k] = 0 → c.code[k] = 0) ∧
      (∀ k : Fin 256, s.len[k] ≠ 0 → c.code[k].toNat =
        first s.len[k].toNat + ((s.len.toList.take k.val).filter (· = s.len[k])).length) ∧
      (∀ n : Fin 65, 1 ≤ n.val → c.rowCount[n].toNat = lengthCount s.len n.val ∧
        c.rowStart[n].toNat = (s.len.toList.filter fun b => b ≠ 0 ∧ b.toNat < n.val).length ∧
        c.rowBase[n].toNat = if lengthCount s.len n.val = 0 then 0 else first n.val) ∧
      c.rowBase[0] = 0 ∧ c.rowStart[0] = 0 ∧ c.rowCount[0] = 0

/-- 42_canonical.md R200, 10_state.md R45: SORTED lists the present symbols by (length ascending, symbol
ascending), and its entries from NSYM on are 0. -/
def Obligations.SortedIsByLengthThenSymbol : Prop :=
  ∀ l c, assignCodes l = .ok c →
    (∀ i : Fin 256, i.val < c.nsym.toNat →
      l[c.sorted[i].symbol.toNat]? = some c.sorted[i].length ∧ c.sorted[i].length ≠ 0) ∧
    (∀ i j : Fin 256, i.val < j.val → j.val < c.nsym.toNat →
      c.sorted[i].length.toNat < c.sorted[j].length.toNat ∨
      (c.sorted[i].length = c.sorted[j].length ∧ c.sorted[i].symbol.toNat < c.sorted[j].symbol.toNat)) ∧
    (∀ i : Fin 256, c.nsym.toNat ≤ i.val → c.sorted[i] = { symbol := 0, length := 0 })

/-- 42_canonical.md R201, R202: a length above 64 fails CANON_ASSIGN with CODE_TOO_LONG (0x25) and the
smallest such symbol; else the first length at which the Kraft check fails gives BAD_LENGTHS (0x27);
nothing else changes. -/
def Obligations.CanonAssignRejectsBadLengths : Prop :=
  ∀ (s : State),
    (∀ k : Fin 256, 64 < s.len[k].toNat → (∀ j : Fin 256, j.val < k.val → s.len[j].toNat ≤ 64) →
      exec .canonAssign s = .next (failedWith s 0x25 k.val)) ∧
    (∀ n, (∀ k : Fin 256, s.len[k].toNat ≤ 64) → 1 ≤ n → n ≤ 64 →
      2 ^ n < firstCode s.len n + lengthCount s.len n →
      (∀ j, 1 ≤ j → j < n → firstCode s.len j + lengthCount s.len j ≤ 2 ^ j) →
      exec .canonAssign s = .next (failedWith s 0x27 n))

/-- 42_canonical.md R205: the five properties of a successful CANON_ASSIGN. -/
def Obligations.CanonicalCodesDecodeUniquely : Prop :=
  ∀ l c, assignCodes l = .ok c →
    (∀ j k : Fin 256, l[j] = l[k] → l[j] ≠ 0 → j.val < k.val →
      (∀ m : Fin 256, j.val < m.val → m.val < k.val → l[m] ≠ l[j]) →
      c.code[k].toNat = c.code[j].toNat + 1) ∧
    (∀ n, n < 64 → firstCode l (n + 1) = (firstCode l n + (lengthCounts l).getD n 0) * 2) ∧
    (∀ j k : Byte, j ≠ k → l[j.toNat]? ≠ some 0 → l[k.toNat]? ≠ some 0 →
      ¬codeBits l j <+: codeBits l k) ∧
    (∀ k : Fin 256, l[k] ≠ 0 →
      lookupRow c l[k].toNat c.code[k].toNat = some (BitVec.ofNat 8 k.val)) ∧
    (∀ (k : Fin 256) n, n < l[k].toNat →
      lookupRow c n (c.code[k].toNat / 2 ^ (l[k].toNat - n)) = none)

/-! ### The bit stream -/

/-- 43_bitstream.md R221-R224, R226: BW_WRITE of at most 64 bits for which there is room appends the low
`count` bits of A0, most significant first, to the bits the writer holds; RES0 is the new WPOS; only the
writer and the bytes from WDST + WCFL before to WDST + WCFL after change, which are none if no chunk
fills. -/
def Obligations.BwWriteAppendsBits : Prop :=
  ∀ s : State, s.writer.wopen = true → WriterSound s.params s.writer → RaceFree s → a1 s ≤ 64 →
    (8 * s.writer.wpos.toNat + s.writer.wnacc.toNat + a1 s) / 8 ≤ s.writer.wcap.toNat →
    Writable s.params s.writer.wdst.toNat s.writer.wcap.toNat →
    ∃ t, exec .bwWrite s = .next t ∧
      t = finished { s with writer := t.writer, mem := t.mem } t.writer.wpos.toNat 0 0 0 ∧
      writerBits t.writer t.mem = writerBits s.writer s.mem ++ lowBits s.latch.a[0].toNat (a1 s) ∧
      8 * t.writer.wpos.toNat + t.writer.wnacc.toNat =
        8 * s.writer.wpos.toNat + s.writer.wnacc.toNat + a1 s ∧
      t.writer.wopen = true ∧ t.writer.wdst = s.writer.wdst ∧ t.writer.wcap = s.writer.wcap ∧
      ∀ a, inRange ⟨s.writer.wdst.toNat + s.writer.wcfl.toNat,
          s.writer.wdst.toNat + t.writer.wcfl.toNat⟩ a = false →
        readByte t.mem a = readByte s.mem a

/-- 43_bitstream.md R227: BW_SYM of a present symbol for whose code there is room appends its code, most
significant bit first; RES0 is the new WPOS and RES1 the length; only the writer and the bytes from WDST +
WCFL before to WDST + WCFL after change. An absent symbol fails with SYMBOL_ABSENT (0x56) and a number
above 255 with BAD_ARG (0x52). -/
def Obligations.BwSymAppendsTheCode : Prop :=
  ∀ s : State, s.writer.wopen = true → s.canonValid = true →
    (∀ k : Fin 256, a0 s = k.val → s.len[k] ≠ 0 → WriterSound s.params s.writer → RaceFree s →
      (8 * s.writer.wpos.toNat + s.writer.wnacc.toNat + s.len[k].toNat) / 8 ≤ s.writer.wcap.toNat →
      Writable s.params s.writer.wdst.toNat s.writer.wcap.toNat →
      ∃ t, exec .bwSym s = .next t ∧
        t = finished { s with writer := t.writer, mem := t.mem }
          t.writer.wpos.toNat s.len[k].toNat 0 0 ∧
        writerBits t.writer t.mem =
          writerBits s.writer s.mem ++ lowBits s.canon.code[k].toNat s.len[k].toNat ∧
        8 * t.writer.wpos.toNat + t.writer.wnacc.toNat =
          8 * s.writer.wpos.toNat + s.writer.wnacc.toNat + s.len[k].toNat ∧
        t.writer.wopen = true ∧ t.writer.wdst = s.writer.wdst ∧ t.writer.wcap = s.writer.wcap ∧
        ∀ a, inRange ⟨s.writer.wdst.toNat + s.writer.wcfl.toNat,
            s.writer.wdst.toNat + t.writer.wcfl.toNat⟩ a = false →
          readByte t.mem a = readByte s.mem a) ∧
    (s.err = false → 255 < a0 s → ∃ t, exec .bwSym s = .next t ∧ t.err = true ∧ t.errcode = 0x52 ∧
      t.errinfo = 0 ∧ t.writer = Writer.closed) ∧
    (∀ k : Fin 256, s.err = false → a0 s = k.val → s.len[k] = 0 →
      ∃ t, exec .bwSym s = .next t ∧ t.err = true ∧ t.errcode = 0x56 ∧ t.errinfo = s.latch.a[0] ∧
      t.writer = Writer.closed)

/-- 43_bitstream.md R228, R229: BW_FLUSH with room for the partial byte completes: memory at WDST holds the
writer's bits, padded with zero bits to whole bytes; RES0 is the padding, RES1 the byte count; the writer
is closed and no other byte of memory and no other state changes. -/
def Obligations.BwFlushPadsAndCloses : Prop :=
  ∀ (s : State) (p : Nat), s.writer.wopen = true → WriterSound s.params s.writer → RaceFree s →
    p = bytesFor (8 * s.writer.wpos.toNat + s.writer.wnacc.toNat) → p ≤ s.writer.wcap.toNat →
    Writable s.params s.writer.wdst.toNat p →
    ∃ t pad, exec .bwFlush s = .next t ∧ pad = (8 - s.writer.wnacc.toNat) % 8 ∧
      t = finished { s with writer := Writer.closed, mem := t.mem } pad p 0 0 ∧
      bitsOf (memBytes t.mem s.writer.wdst.toNat p) =
        writerBits s.writer s.mem ++ List.replicate pad false ∧
      ∀ a, inRange (rangeOf s.writer.wdst.toNat p) a = false → readByte t.mem a = readByte s.mem a

/-- 43_bitstream.md R222: a byte that does not fit makes BW_WRITE fail with DST_FULL (0x41) and the bytes
that would have been needed, and closes the writer. -/
def Obligations.FullDestinationIsDstFull : Prop :=
  ∀ s : State, s.err = false → s.writer.wopen = true → WriterSound s.params s.writer → a1 s ≤ 64 →
    s.writer.wcap.toNat < (8 * s.writer.wpos.toNat + s.writer.wnacc.toNat + a1 s) / 8 →
    s.writer.wcap.toNat + 1 < addressLimit →
    Writable s.params s.writer.wdst.toNat s.writer.wcap.toNat →
    ∃ t, exec .bwWrite s = .next t ∧ t.err = true ∧ t.errcode = 0x41 ∧
      t.errinfo.toNat = s.writer.wcap.toNat + 1 ∧ t.writer = Writer.closed

/-- 43_bitstream.md R225, R233, R236: BW_OPEN and BR_OPEN on a range inside the address space open the unit
on it, empty or at its start, whatever it was before; BR_CLOSE closes the reader; none changes anything
else. -/
def Obligations.StreamUnitsOpenAndClose : Prop :=
  (∀ s : State, a0 s + a1 s ≤ addressLimit →
    exec .bwOpen s = .next (finished
      { s with writer := { wopen := true, wdst := s.latch.a[0], wcap := s.latch.a[1], wpos := 0, wcfl := 0
                           wacc := 0, wnacc := 0, chunk := [] } } 0 0 0 0) ∧
    exec .brOpen s = .next (finished
      { s with reader := { ropen := true, rsrc := s.latch.a[0], rlen := s.latch.a[1], rpos := 0
                           rbyte := 0, rnb := 0 } } 0 0 0 0)) ∧
  (∀ s : State, exec .brClose s = .next (finished { s with reader := Reader.closed } 0 0 0 0))

/-- 43_bitstream.md R231, R234, R237: BR_READBIT returns the next of the reader's bits
and leaves the rest; with none left it returns end of stream (0, 1) and changes nothing. Only the reader
changes. A refill that may not be read fails with IO_READ (0x11) and closes the reader. (A refill the host
raced with is free, 20_memory.md R83.) -/
def Obligations.BrReadbitReturnsTheNextBit : Prop :=
  ∀ s : State, s.reader.ropen = true → ReaderSound s.reader →
    (∀ b rest, readerBits s.reader s.mem = b :: rest →
      (s.reader.rnb = 0 →
        RaceFree s ∧ Readable s.params (s.reader.rsrc.toNat + s.reader.rpos.toNat) 1) →
      ∃ t, exec .brReadbit s = .next t ∧
        t = finished { s with reader := t.reader } (if b then 1 else 0) 0 0 0 ∧
        readerBits t.reader t.mem = rest ∧ t.reader.ropen = true ∧
        t.reader.rsrc = s.reader.rsrc ∧ t.reader.rlen = s.reader.rlen) ∧
    (readerBits s.reader s.mem = [] → exec .brReadbit s = .next (finished s 0 1 0 0)) ∧
    (s.err = false → s.reader.rnb = 0 → s.reader.rpos.toNat < s.reader.rlen.toNat →
      admits s.params.admitR (s.reader.rsrc.toNat + s.reader.rpos.toNat) = false →
      exec .brReadbit s = .next (failedWith { s with reader := Reader.closed } 0x11
        (s.reader.rsrc.toNat + s.reader.rpos.toNat)))

/-- 43_bitstream.md R232, R235, with 42_canonical.md R205: when the reader's bits begin with the code of a
present symbol, BR_SYM returns that symbol and its length and leaves the bits after the code; only the
reader changes. With no present symbol it fails with BAD_LENGTHS (0x27), with no bit left with UNDERFLOW
(0x24), and closes the reader. -/
def Obligations.BrSymDecodesTheCode : Prop :=
  ∀ s : State, s.reader.ropen = true → s.canonValid = true →
    (∀ (x : Byte) (rest : List Bool), CanonCurrent s → ReaderSound s.reader → RaceFree s →
      s.len[x.toNat]? ≠ some 0 → readerBits s.reader s.mem = codeBits s.len x ++ rest →
      Readable s.params (s.reader.rsrc.toNat + s.reader.rpos.toNat)
        (s.reader.rlen.toNat - s.reader.rpos.toNat) →
      ∃ t, exec .brSym s = .next t ∧
        t = finished { s with reader := t.reader } x.toNat (codeBits s.len x).length 0 0 ∧
        readerBits t.reader t.mem = rest ∧ t.reader.ropen = true ∧
        t.reader.rsrc = s.reader.rsrc ∧ t.reader.rlen = s.reader.rlen) ∧
    (s.canon.nsym = 0 →
      exec .brSym s = .next (failedWith { s with reader := Reader.closed } 0x27 0)) ∧
    (s.canon.nsym ≠ 0 → ReaderSound s.reader → readerBits s.reader s.mem = [] →
      exec .brSym s = .next (failedWith { s with reader := Reader.closed } 0x24 0))

/-! ### The frame codec -/

/-- 44_frame_codec.md R260, R261: under `EncodeReady` FRAME_ENCODE completes: the frame of the source stands
at A2, RES0 is its length and RES1 its padding count; LEN and the canonical tables are those of the
frame, the tree is the one of FREQ (for an empty source the tree state keeps its value), the writer is
closed, and no other byte of memory and no other state changes. -/
def Obligations.FrameEncodeWritesTheFrame : Prop :=
  ∀ (s : State) (l : Vector Byte 256) (xs : List Byte) (c : Canon),
    EncodeReady s (a0 s) (a1 s) (a2 s) (a3 s) l → RaceFree s → OverlapFree .frameEncode s →
    xs = memBytes s.mem (a0 s) (a1 s) → assignCodes l = .ok c →
    ∃ t, exec .frameEncode s = .next t ∧
      t = finished { s with
          tree := t.tree, treeValid := t.treeValid, len := l, canon := c, canonValid := true
          writer := Writer.closed, mem := t.mem }
        (269 + bytesFor (payloadBits l xs).length)
        (8 * bytesFor (payloadBits l xs).length - (payloadBits l xs).length) 0 0 ∧
      (a1 s = 0 → t.tree = s.tree ∧ t.treeValid = s.treeValid) ∧
      (a1 s ≠ 0 → buildTree s.freq = .ok t.tree ∧ t.treeValid = true) ∧
      FrameAt t.mem (a2 s) l xs ∧
      ∀ a, inRange (rangeOf (a2 s) (269 + bytesFor (payloadBits l xs).length)) a = false →
        readByte t.mem a = readByte s.mem a

/-- 44_frame_codec.md R260, errors 2 to 4 and 5: with legal ranges, a capacity below 269 is DST_FULL (0x41,
269); else a FREQ sum of 2^64 or more is FREQ_OVERFLOW (0x54), another sum than the length FREQ_MISMATCH
(0x55, the sum), and a too deep tree CODE_TOO_LONG (0x25) after the tree is committed. The writer is
closed; what memory holds then is said by `CommandsWriteOnlyTheirRanges` (20_memory.md R89, log 9). -/
def Obligations.FrameEncodeChecksItsInputs : Prop :=
  ∀ s : State, s.err = false → a0 s + a1 s ≤ addressLimit → a2 s + a3 s ≤ addressLimit →
    (a3 s < 269 → ∃ m, exec .frameEncode s =
      .next (failedWith { s with writer := Writer.closed, mem := m } 0x41 269)) ∧
    (269 ≤ a3 s → addressLimit ≤ freqSum s.freq → ∃ m, exec .frameEncode s =
      .next (failedWith { s with writer := Writer.closed, mem := m } 0x54 0)) ∧
    (269 ≤ a3 s → freqSum s.freq < addressLimit → freqSum s.freq ≠ a1 s → ∃ m, exec .frameEncode s =
      .next (failedWith { s with writer := Writer.closed, mem := m } 0x55 (freqSum s.freq))) ∧
    (∀ tree k, 269 ≤ a3 s → freqSum s.freq = a1 s → a1 s ≠ 0 → buildTree s.freq = .ok tree →
      treeDepths tree = .error { code := .codeTooLong, info := k } → ∃ m, exec .frameEncode s =
      .next (failedWith { s with tree := tree, treeValid := true, writer := Writer.closed, mem := m }
        0x25 k))

/-- 44_frame_codec.md R262, R263: under `DecodeReady` FRAME_DECODE completes: the symbols stand at A2, RES0
is the original size, RES1 the whole payload bytes their codes take, RES2 the stored padding byte; LEN
and the canonical tables are the frame's, the reader is closed, and no other byte of memory and no other
state changes. -/
def Obligations.FrameDecodeRecoversTheSymbols : Prop :=
  ∀ (s : State) (l : Vector Byte 256) (pad : Byte) (xs : List Byte) (c : Canon),
    DecodeReady s (a0 s) (a1 s) (a2 s) (a3 s) l pad xs → RaceFree s →
    OverlapFree .frameDecode s → assignCodes l = .ok c →
    ∃ t, exec .frameDecode s = .next t ∧
      t = finished { s with
          len := l, canon := c, canonValid := true, reader := Reader.closed, mem := t.mem }
        xs.length (bytesFor (payloadBits l xs).length) pad.toNat 0 ∧
      memBytes t.mem (a2 s) xs.length = xs ∧
      ∀ a, inRange (rangeOf (a2 s) xs.length) a = false → readByte t.mem a = readByte s.mem a

/-- 44_frame_codec.md R264: what FRAME_ENCODE wrote, FRAME_DECODE reads back: from any state whose memory
holds the bytes of the frame FRAME_ENCODE wrote, decoding them into a large enough, admitted and disjoint
range writes exactly the source and returns its length. -/
def Obligations.FrameRoundTrip : Prop :=
  ∀ (s t u : State) (l : Vector Byte 256),
    EncodeReady s (a0 s) (a1 s) (a2 s) (a3 s) l → RaceFree s → OverlapFree .frameEncode s →
    exec .frameEncode s = .next t →
    (∀ k, k < t.res[0].toNat → readByte u.mem (a2 s + k) = readByte t.mem (a2 s + k)) →
    RaceFree u → OverlapFree .frameDecode u →
    a0 u = a2 s → a1 u = t.res[0].toNat → a2 u + a3 u ≤ addressLimit → a1 s ≤ a3 u →
    Readable u.params (a0 u) (a1 u) → Writable u.params (a2 u) (a1 s) →
    ∃ v, exec .frameDecode u = .next v ∧ v.err = u.err ∧ v.res[0] = BitVec.ofNat 64 (a1 s) ∧
      memBytes v.mem (a2 u) (a1 s) = memBytes s.mem (a0 s) (a1 s)

/-! ### The archive multiplexer -/

/-- 45_archive.md R281: ARCH_BEGIN with legal arguments, room and an admitted range completes: the header
with count 0 and the zeroed table stand at A0, the creation context is open and empty with PARTIAL and
AFAIL 0, whatever it was before, and no other byte of memory and no other state changes. Whatever fails,
the creation context is closed with PARTIAL and AFAIL 0; more slots than MAX_MEMBERS is BAD_ARG (0x52,
2), too little room DST_FULL (0x41, the bytes needed). -/
def Obligations.ArchBeginOpensTheArchive : Prop :=
  ∀ (s : State) (size : Nat), s.params.Legal → size = 9 + a2 s * (s.params.pathLen + 24) →
    (a0 s + a1 s ≤ addressLimit → a2 s ≤ s.params.maxMembers → size ≤ a1 s → RaceFree s →
      Writable s.params (a0 s) size →
      ∃ t, exec .archBegin s = .next t ∧
        t = finished { s with
          mem := t.mem
          create := { archW := true, abase := s.latch.a[0], acap := s.latch.a[1]
                      aslots := BitVec.ofNat 16 (a2 s), an := 0, aend := BitVec.ofNat 64 size, afail := 0
                      partialAdd := false, ram := [] } } size 0 0 0 ∧
        memBytes t.mem (a0 s) size =
          [0x48, 0x55, 0x46, 0x46, 0x01, 0, 0, 0, 0] ++
            List.replicate (a2 s * (s.params.pathLen + 24)) 0 ∧
        ∀ a, inRange (rangeOf (a0 s) size) a = false → readByte t.mem a = readByte s.mem a) ∧
    (s.err = false → ∀ t, exec .archBegin s = .next t → t.err = true → t.create = Create.zero) ∧
    (a0 s + a1 s ≤ addressLimit → s.params.maxMembers < a2 s → ∃ t, exec .archBegin s = .next t ∧
      t.err = true ∧ t.errcode = 0x52 ∧ t.errinfo = 2) ∧
    (a0 s + a1 s ≤ addressLimit → a2 s ≤ s.params.maxMembers → a1 s < size →
      ∃ t, exec .archBegin s = .next t ∧
      t.err = true ∧ t.errcode = 0x41 ∧ t.errinfo.toNat = size)

/-- 45_archive.md R282: with a free slot, a legal path `q` and a source ready to encode into the rest of the
archive, ARCH_ADD completes: the member's frame stands at AEND, a record (path, size, frame length, AEND)
is added, AN and AEND move on, the results are the index, the offset and the frame length; and no other
byte of memory and no other state changes but what FRAME_ENCODE changes. -/
def Obligations.ArchAddCompletes : Prop :=
  ∀ (s : State) (l : Vector Byte 256) (q xs : List Byte) (c : Canon) (flen : Nat), s.params.Legal → CreateSound s.params s.create → s.create.archW = true →
    s.create.an ≠ s.create.aslots → RaceFree s → OverlapFree .archAdd s →
    a2 s + a3 s ≤ addressLimit → 1 ≤ a3 s → a3 s ≤ s.params.pathLen - 1 →
    Readable s.params (a2 s) (a3 s) → q = memBytes s.mem (a2 s) (a3 s) → 0 ∉ q →
    EncodeReady s (a0 s) (a1 s) (s.create.abase.toNat + s.create.aend.toNat)
      (s.create.acap.toNat - s.create.aend.toNat) l →
    xs = memBytes s.mem (a0 s) (a1 s) → assignCodes l = .ok c →
    flen = 269 + bytesFor (payloadBits l xs).length →
    ∃ t, exec .archAdd s = .next t ∧
      t = finished { s with
          tree := t.tree, treeValid := t.treeValid, len := l, canon := c, canonValid := true
          writer := Writer.closed, mem := t.mem
          create := { s.create with
            an := s.create.an + 1, aend := s.create.aend + BitVec.ofNat 64 flen
            ram := s.create.ram ++
              [{ path := q ++ List.replicate (s.params.pathLen - q.length) 0, orig := s.latch.a[1]
                 comp := BitVec.ofNat 64 flen, off := s.create.aend }] } }
        s.create.an.toNat s.create.aend.toNat flen 0 ∧
      (a1 s = 0 → t.tree = s.tree ∧ t.treeValid = s.treeValid) ∧
      (a1 s ≠ 0 → buildTree s.freq = .ok t.tree ∧ t.treeValid = true) ∧
      FrameAt t.mem (s.create.abase.toNat + s.create.aend.toNat) l xs ∧
      ∀ a, inRange (rangeOf (s.create.abase.toNat + s.create.aend.toNat) flen) a = false →
        readByte t.mem a = readByte s.mem a

/-- 45_archive.md R282, R290: a failed ARCH_ADD in an open creation sets PARTIAL, counts in AFAIL up to
2^32 - 1, leaves the rest of the creation context as it was, and changes no byte of
`[ABASE, ABASE + AEND)`. -/
def Obligations.FailedAddIsIsolated : Prop :=
  ∀ s t : State, s.err = false → s.mem.wf → s.create.archW = true → exec .archAdd s = .next t → t.err = true →
    t.create = { s.create with
      partialAdd := true
      afail := BitVec.ofNat 32 (min (s.create.afail.toNat + 1) (2 ^ 32 - 1)) } ∧
    ∀ k, k < s.create.aend.toNat →
      readByte t.mem (s.create.abase.toNat + k) = readByte s.mem (s.create.abase.toNat + k)

/-- 45_archive.md R283: ARCH_END in a sound creation completes: AN stands at offset 5 and the records in
slots 0..AN-1, RES0 is the archive length, RES1 AN, RES2 AFAIL; the creation context is closed and keeps
AFAIL and PARTIAL; no other byte of memory and no other state changes. -/
def Obligations.ArchEndWritesTheTable : Prop :=
  ∀ s : State, s.create.archW = true → s.params.Legal → CreateSound s.params s.create → RaceFree s →
    Writable s.params s.create.abase.toNat (9 + s.create.an.toNat * (s.params.pathLen + 24)) →
    ∃ t, exec .archEnd s = .next t ∧
      t = finished { s with
          mem := t.mem
          create := { Create.zero with afail := s.create.afail, partialAdd := s.create.partialAdd } }
        s.create.aend.toNat s.create.an.toNat s.create.afail.toNat 0 ∧
      memBytes t.mem (s.create.abase.toNat + 5) 4 = leBytes 4 s.create.an.toNat ∧
      (∀ k e, s.create.ram[k]? = some e →
        memBytes t.mem (s.create.abase.toNat + 9 + k * (s.params.pathLen + 24)) (s.params.pathLen + 24) =
          e.path ++ leBytes 8 e.orig.toNat ++ leBytes 8 e.comp.toNat ++ leBytes 8 e.off.toNat) ∧
      (∀ a, inRange (rangeOf (s.create.abase.toNat + 5)
          (4 + s.create.an.toNat * (s.params.pathLen + 24))) a = false →
        readByte t.mem a = readByte s.mem a)

/-- 45_archive.md R284: ARCH_OPEN of a readable archive with the magic, version 1 and a table that fits
completes: the reading context is open on it and RES0 is the file count; nothing else changes. -/
def Obligations.ArchOpenCompletes : Prop :=
  ∀ (s : State) (n : Nat), a0 s + a1 s ≤ addressLimit → RaceFree s → Readable s.params (a0 s) 9 →
    memBytes s.mem (a0 s) 5 = [0x48, 0x55, 0x46, 0x46, 0x01] →
    n = leRead (memBytes s.mem (a0 s + 5) 4) → 9 + n * (s.params.pathLen + 24) ≤ a1 s →
    exec .archOpen s = .next (finished
      { s with reading := { archR := true, xbase := s.latch.a[0], xlen := s.latch.a[1]
                            xn := BitVec.ofNat 32 n } } n 0 0 0)

/-- 45_archive.md R284, errors in order: an archive below 9 bytes is TRUNCATED_HEADER (0x22), a wrong magic
BAD_MAGIC (0x21), a wrong version BAD_VERSION (0x28, the byte), a table that does not fit TRUNCATED_TABLE
(0x23, the count); each leaves the reading context closed and nothing else changed. -/
def Obligations.ArchOpenRejectsBadArchives : Prop :=
  ∀ s : State, s.err = false → a0 s + a1 s ≤ addressLimit →
    (a1 s < 9 → exec .archOpen s =
      .next (failedWith { s with reading := Reading.closed } 0x22 (a1 s))) ∧
    (9 ≤ a1 s → RaceFree s → Readable s.params (a0 s) 9 →
      (memBytes s.mem (a0 s) 4 ≠ [0x48, 0x55, 0x46, 0x46] → exec .archOpen s =
        .next (failedWith { s with reading := Reading.closed } 0x21 0)) ∧
      (memBytes s.mem (a0 s) 4 = [0x48, 0x55, 0x46, 0x46] → readByte s.mem (a0 s + 4) ≠ 1 →
        exec .archOpen s = .next (failedWith { s with reading := Reading.closed } 0x28
          (readByte s.mem (a0 s + 4)).toNat)) ∧
      (memBytes s.mem (a0 s) 5 = [0x48, 0x55, 0x46, 0x46, 0x01] →
        a1 s < 9 + leRead (memBytes s.mem (a0 s + 5) 4) * (s.params.pathLen + 24) →
        exec .archOpen s = .next (failedWith { s with reading := Reading.closed } 0x23
          (leRead (memBytes s.mem (a0 s + 5) 4)))))

/-- 45_archive.md R285, R288: ARCH_ENTRY of an index below XN whose entry is readable returns the original
size, the compressed size, the data offset and the length of the stored path (the bytes before the first
0x00); it changes nothing else. An index of XN or more is BAD_INDEX (0x32). -/
def Obligations.ArchEntryReturnsTheRecord : Prop :=
  ∀ (s : State) (at0 : Nat), s.reading.archR = true →
    at0 = s.reading.xbase.toNat + 9 + a0 s * (s.params.pathLen + 24) →
    (a0 s < s.reading.xn.toNat → RaceFree s → Readable s.params at0 (s.params.pathLen + 24) →
      exec .archEntry s = .next (finished s
        (leRead (memBytes s.mem (at0 + s.params.pathLen) 8))
        (leRead (memBytes s.mem (at0 + s.params.pathLen + 8) 8))
        (leRead (memBytes s.mem (at0 + s.params.pathLen + 16) 8))
        ((memBytes s.mem at0 s.params.pathLen).takeWhile (· ≠ 0)).length)) ∧
    (s.reading.xn.toNat ≤ a0 s → exec .archEntry s = .next (failedWith s 0x32 (a0 s)))

/-- 45_archive.md R286, R288: ARCH_FIND on a readable query and archive returns the lowest index whose
stored path equals the query, and fails with NOT_FOUND (0x31) when there is none or the query is longer
than PATH_LEN; it changes nothing else. -/
def Obligations.ArchFindReturnsTheFirstMatch : Prop :=
  ∀ (s : State) (path : Nat → List Byte) (q : List Byte), s.reading.archR = true → a0 s + a1 s ≤ addressLimit →
    q = memBytes s.mem (a0 s) (a1 s) →
    (∀ k, path k = (memBytes s.mem (s.reading.xbase.toNat + 9 + k * (s.params.pathLen + 24))
      s.params.pathLen).takeWhile (· ≠ 0)) →
    (s.params.pathLen < a1 s → exec .archFind s = .next (failedWith s 0x31 0)) ∧
    (a1 s ≤ s.params.pathLen → RaceFree s → Readable s.params (a0 s) (a1 s) →
      Readable s.params (s.reading.xbase.toNat + 9) (s.reading.xn.toNat * (s.params.pathLen + 24)) →
      (∀ k, k < s.reading.xn.toNat → path k = q → (∀ j, j < k → path j ≠ q) →
        exec .archFind s = .next (finished s k 0 0 0)) ∧
      ((∀ k, k < s.reading.xn.toNat → path k ≠ q) → exec .archFind s = .next (failedWith s 0x31 0)))

/-- 45_archive.md R287: ARCH_EXTRACT of an entry whose frame lies in the archive and holds `xs` of the
entry's size writes `xs` at A1 and returns its length; LEN and the canonical tables are the frame's, the
reader is closed, the reading context stays open, and no other byte of memory and no other state
changes. -/
def Obligations.ArchExtractWritesTheMember : Prop :=
  ∀ (s : State) (at0 off comp : Nat) (l : Vector Byte 256) (pad : Byte) (xs : List Byte) (c : Canon),
    s.reading.archR = true → a0 s < s.reading.xn.toNat →
    at0 = s.reading.xbase.toNat + 9 + a0 s * (s.params.pathLen + 24) + s.params.pathLen →
    leRead (memBytes s.mem at0 8) = xs.length → leRead (memBytes s.mem (at0 + 8) 8) = comp →
    leRead (memBytes s.mem (at0 + 16) 8) = off → off + comp ≤ s.reading.xlen.toNat →
    Readable s.params at0 24 → a1 s + a2 s ≤ addressLimit → RaceFree s →
    OverlapFree .archExtract s → ReadingSound s.params s.reading →
    DecodeReady s (s.reading.xbase.toNat + off) comp (a1 s) (a2 s) l pad xs → assignCodes l = .ok c →
    ∃ t, exec .archExtract s = .next t ∧
      t = finished { s with
          len := l, canon := c, canonValid := true, reader := Reader.closed, mem := t.mem }
        xs.length 0 0 0 ∧
      memBytes t.mem (a1 s) xs.length = xs ∧
      ∀ a, inRange (rangeOf (a1 s) xs.length) a = false → readByte t.mem a = readByte s.mem a

/-- 44_frame_codec.md R262, errors 2 and 4, and 45_archive.md R287, errors 3 and 5. FRAME_DECODE with legal
ranges: a frame shorter than 269 bytes is TRUNCATED_HEADER (0x22, its length), and a readable one that
does not begin with "HUF1" is BAD_MAGIC (0x21). ARCH_EXTRACT with a legal destination: an index of XN or
more is BAD_INDEX (0x32), and a readable entry whose offset and size pass the archive's length is
TRUNCATED_MEMBER (0x29, the index). The reader is closed; LEN, the canonical tables and the reading
context keep their values (60_exceptions.md R328). -/
def Obligations.DecodersCheckTheirInputs : Prop :=
  (∀ s : State, a0 s + a1 s ≤ addressLimit → a2 s + a3 s ≤ addressLimit →
    (a1 s < 269 → ∃ m, exec .frameDecode s =
      .next (failedWith { s with reader := Reader.closed, mem := m } 0x22 (a1 s))) ∧
    (269 ≤ a1 s → RaceFree s → OverlapFree .frameDecode s → Readable s.params (a0 s) 4 →
      memBytes s.mem (a0 s) 4 ≠ [0x48, 0x55, 0x46, 0x31] → ∃ m, exec .frameDecode s =
      .next (failedWith { s with reader := Reader.closed, mem := m } 0x21 0))) ∧
  (∀ (s : State) (at0 : Nat), s.reading.archR = true → a1 s + a2 s ≤ addressLimit →
    at0 = s.reading.xbase.toNat + 9 + a0 s * (s.params.pathLen + 24) + s.params.pathLen →
    (s.reading.xn.toNat ≤ a0 s → ∃ m, exec .archExtract s =
      .next (failedWith { s with reader := Reader.closed, mem := m } 0x32 (a0 s))) ∧
    (a0 s < s.reading.xn.toNat → RaceFree s → Readable s.params at0 24 → OverlapFree .archExtract s →
      ReadingSound s.params s.reading →
      s.reading.xlen.toNat <
        leRead (memBytes s.mem (at0 + 16) 8) + leRead (memBytes s.mem (at0 + 8) 8) →
      ∃ m, exec .archExtract s =
        .next (failedWith { s with reader := Reader.closed, mem := m } 0x29 (a0 s))))

/-! ### Invariants of every step -/

/-- 10_state.md R50: reset meets every invariant below. That reset memory has the canonical form rests on
log 2, and that the parameters reset carries lie in the ranges of 00_scope.md R6 on log 1: both DESIGN
CHOICE, the model's. -/
def Obligations.ResetMeetsTheInvariants : Prop :=
  State.reset.mem.wf ∧ StatusConsistent State.reset ∧ TreeCurrent State.reset ∧
  CanonCurrent State.reset ∧ UnitsSound State.reset ∧ State.reset.params.Legal

/-- Every step keeps memory in its canonical form (20_memory.md R71: each address holds one byte), whatever
the command, its errors, the host's accesses and resets do to it. -/
def Obligations.StepKeepsMemoryCanonical : Prop :=
  ∀ s t : State, s.mem.wf → step s = .next t → t.mem.wf

/-- 10_state.md R25, 40_host_interface.md R143, R146: every step keeps STATUS consistent: BUSY excludes DONE
and ERR, no ERR means no code and no detail, and every code is one of 60_exceptions.md R320. -/
def Obligations.StepKeepsStatusConsistent : Prop :=
  ∀ s t : State, StatusConsistent s → step s = .next t → StatusConsistent t

/-- 10_state.md R25, 70_reset_and_hazards.md R356: every step keeps "TREE_VALID: The node arena holds a tree
built from the current FREQ table" and "CANON_VALID: CODE, SORTED and the rows were derived from the
current LEN table". -/
def Obligations.StepKeepsTablesCurrent : Prop :=
  ∀ s t : State, TreeCurrent s → CanonCurrent s → step s = .next t → TreeCurrent t ∧ CanonCurrent t

/-- 43_bitstream.md R220, R230, 45_archive.md R280: every step keeps the writer, the reader, the creation
context and the reading context sound, and keeps the parameters of the instance legal and as they are
(00_scope.md R6), so the step lemma chains. -/
def Obligations.StepKeepsUnitsSound : Prop :=
  ∀ s t : State, s.params.Legal → UnitsSound s → step s = .next t →
    UnitsSound t ∧ t.params.Legal ∧ SameInstance s.params t.params
end

