-- ==== Sys2Proof/Laws/Memory.lean ====
section
/-! SUPPORT. Laws of system memory: a read after a write or after a free draw, and the canonical form that every memory operation keeps. -/

namespace Sys2Proof.Machine

/-! ### Known bytes -/

theorem lookupCell_eraseCell (cs : List Host.Cell) (a x : Nat) :
    lookupCell (eraseCell cs a) x = if x = a then none else lookupCell cs x := by
  induction cs with
  | nil => simp [eraseCell, lookupCell]
  | cons c cs ih =>
    obtain ⟨k, b⟩ := c
    simp only [eraseCell] at ih ⊢
    by_cases h : k = a
    · simp only [h, List.filter_cons, ne_eq, not_true_eq_false, decide_false, Bool.false_eq_true,
        if_false, ih, lookupCell]
      by_cases hx : x = a
      · simp [hx]
      · simp [hx, Ne.symm hx]
    · simp only [List.filter_cons, ne_eq, h, not_false_eq_true, decide_true, if_true, lookupCell, ih]
      by_cases hk : k = x
      · simp [hk, hk ▸ h]
      · simp [hk]

theorem lookupCell_insertCell (cs : List Host.Cell) (a x : Nat) (b : Byte) :
    lookupCell (insertCell cs a b) x = if x = a then some b else lookupCell cs x := by
  induction cs with
  | nil =>
    by_cases h : x = a
    · simp [insertCell, lookupCell, h]
    · simp [insertCell, lookupCell, h, Ne.symm h]
  | cons c cs ih =>
    obtain ⟨k, d⟩ := c
    simp only [insertCell]
    split
    · by_cases h : x = a
      · simp [lookupCell, h]
      · simp [lookupCell, h, Ne.symm h]
    · split
      · subst_vars
        by_cases h : x = k
        · simp [lookupCell, h]
        · simp [lookupCell, h, Ne.symm h]
      · rename_i hk hne
        simp only [lookupCell, ih]
        by_cases hx : k = x
        · have hxa : ¬x = a := fun h => hne (by omega)
          simp [hx, hxa]
        · simp [hx]

theorem mem_insertCell {cs : List Host.Cell} {a : Nat} {b : Byte} {c : Host.Cell}
    (h : c ∈ insertCell cs a b) : c = (a, b) ∨ (c ∈ cs ∧ c.1 ≠ a) ∨ c ∈ cs := by
  induction cs with
  | nil => simp [insertCell] at h; exact .inl h
  | cons d cs ih =>
    obtain ⟨k, e⟩ := d
    simp only [insertCell] at h
    split at h
    · simp only [List.mem_cons] at h ⊢; tauto
    · split at h
      · simp only [List.mem_cons] at h ⊢; tauto
      · simp only [List.mem_cons] at h ⊢
        rcases h with h | h
        · exact .inr (.inr (.inl h))
        · rcases ih h with h | h | h
          · exact .inl h
          · exact .inr (.inr (.inr h.1))
          · exact .inr (.inr (.inr h))

theorem insertCell_rises {cs : List Host.Cell} {a : Nat} {b : Byte}
    (h : cs.Pairwise fun c d => c.1 < d.1) : (insertCell cs a b).Pairwise fun c d => c.1 < d.1 := by
  induction cs with
  | nil => simp [insertCell]
  | cons d cs ih =>
    obtain ⟨k, e⟩ := d
    obtain ⟨hk, hcs⟩ := List.pairwise_cons.1 h
    simp only [insertCell]
    split
    · rename_i hak
      refine List.pairwise_cons.2 ⟨?_, h⟩
      intro c hc
      rcases List.mem_cons.1 hc with rfl | hc
      · exact hak
      · exact Nat.lt_trans hak (hk c hc)
    · split
      · rename_i _ hak
        subst hak
        exact List.pairwise_cons.2 ⟨hk, hcs⟩
      · rename_i hak hne
        refine List.pairwise_cons.2 ⟨?_, ih hcs⟩
        intro c hc
        rcases mem_insertCell hc with rfl | hc | hc
        · show k < a
          omega
        · exact hk c hc.1
        · exact hk c hc

/-! ### Free regions -/

/-- The draw of the region an address lies in. -/
def drawAt (rs : List Region) (a : Nat) : Option Nat :=
  (rs.find? fun r => decide (r.lo ≤ a ∧ a < r.hi)).map Region.draw

/-- The regions' part of the canonical form. -/
abbrev RegionsRise (rs : List Region) : Prop :=
  rs.Pairwise (fun r q => r.hi < q.lo ∨ (r.hi = q.lo ∧ r.draw ≠ q.draw)) ∧
  ∀ r ∈ rs, r.lo < r.hi ∧ r.hi ≤ addressLimit

theorem unlistedByte_eq (m : Memory) (a : Nat) :
    unlistedByte m a = match drawAt m.regions a with
      | some d => Config.freeByte d a
      | none => 0 := by
  unfold unlistedByte drawAt
  cases m.regions.find? fun r => decide (r.lo ≤ a ∧ a < r.hi) <;> rfl

theorem drawAt_cons (r : Region) (rs : List Region) (a : Nat) :
    drawAt (r :: rs) a = if r.lo ≤ a ∧ a < r.hi then some r.draw else drawAt rs a := by
  by_cases h : r.lo ≤ a ∧ a < r.hi <;> simp [drawAt, h]

theorem drawAt_none {rs : List Region} {a : Nat} :
    drawAt rs a = none ↔ ∀ r ∈ rs, ¬(r.lo ≤ a ∧ a < r.hi) := by
  simp [drawAt, List.find?_eq_none]

theorem drawAt_append (rs qs : List Region) (a : Nat) :
    drawAt (rs ++ qs) a = (drawAt rs a).or (drawAt qs a) := by
  induction rs with
  | nil => simp [drawAt]
  | cons r rs ih =>
    rw [List.cons_append, drawAt_cons, drawAt_cons, ih]
    split <;> simp

theorem drawAt_carveRegion (lo hi : Nat) (r : Region) (a : Nat) :
    drawAt (carveRegion lo hi r) a =
      if (r.lo ≤ a ∧ a < r.hi) ∧ ¬(lo ≤ a ∧ a < hi) then some r.draw else none := by
  have nil (x : Nat) : drawAt [] x = none := rfl
  unfold carveRegion
  split <;> split <;>
    simp only [List.nil_append, List.append_nil, List.cons_append, drawAt_cons, nil] <;>
    split_ifs <;> first | rfl | (exfalso; omega)

theorem drawAt_carve (lo hi : Nat) (rs : List Region) (a : Nat) :
    drawAt (carve lo hi rs) a = if lo ≤ a ∧ a < hi then none else drawAt rs a := by
  induction rs with
  | nil => simp [carve, drawAt]
  | cons r rs ih =>
    have hc : carve lo hi (r :: rs) = carveRegion lo hi r ++ carve lo hi rs := by
      simp [carve]
    rw [hc, drawAt_append, drawAt_carveRegion, ih, drawAt_cons]
    by_cases h : lo ≤ a ∧ a < hi <;> by_cases hr : r.lo ≤ a ∧ a < r.hi <;> simp [h, hr]

theorem mem_carve {lo hi : Nat} {rs : List Region} {q : Region} (h : q ∈ carve lo hi rs) :
    ∃ r ∈ rs, r.lo ≤ q.lo ∧ q.hi ≤ r.hi ∧ q.lo < q.hi ∧ q.draw = r.draw ∧ (q.hi ≤ lo ∨ hi ≤ q.lo) := by
  simp only [carve, List.mem_flatMap] at h
  obtain ⟨r, hr, hq⟩ := h
  refine ⟨r, hr, ?_⟩
  simp only [carveRegion, List.mem_append] at hq
  rcases hq with hq | hq <;> split at hq <;> simp only [List.mem_singleton, List.not_mem_nil] at hq <;>
    subst hq <;> simp only [true_and] <;> omega

theorem carve_rises {lo hi : Nat} {rs : List Region} (hlh : lo < hi) (h : RegionsRise rs) :
    RegionsRise (carve lo hi rs) := by
  refine ⟨?_, fun q hq => ?_⟩
  · unfold carve
    rw [List.pairwise_flatMap]
    refine ⟨fun r hr => ?_, h.1.imp fun {r q} hrq x hx y hy => ?_⟩
    · unfold carveRegion
      split <;> split <;> simp
      omega
    · obtain ⟨r', hr', hxr⟩ := mem_carve (lo := lo) (hi := hi) (rs := [r]) (q := x) (by simpa [carve] using hx)
      obtain ⟨q', hq', hyq⟩ := mem_carve (lo := lo) (hi := hi) (rs := [q]) (q := y) (by simpa [carve] using hy)
      simp only [List.mem_singleton] at hr' hq'
      subst hr' hq'
      rcases hrq with hrq | ⟨hrq, hd⟩
      · left; omega
      · by_cases ht : x.hi < y.lo
        · exact .inl ht
        · refine .inr ⟨by omega, ?_⟩
          rw [hxr.2.2.2.1, hyq.2.2.2.1]
          exact hd
  · obtain ⟨r, hr, hq⟩ := mem_carve hq
    have := h.2 r hr
    omega

/-- A region of a rising list is the one its first address lies in. -/
theorem drawAt_of_mem {rs : List Region} (h : RegionsRise rs) {x : Region} (hx : x ∈ rs) :
    drawAt rs x.lo = some x.draw := by
  obtain ⟨pre, post, rfl⟩ := List.append_of_mem hx
  have hx0 := h.2 x hx
  have hpre : drawAt pre x.lo = none := by
    rw [drawAt_none]
    intro z hz hzz
    have := (List.pairwise_append.1 h.1).2.2 z hz x (by simp)
    omega
  rw [drawAt_append, hpre, drawAt_cons]
  simp [hx0.1]

/-- A region outside every one of a list. -/
abbrev OutsideAll (r : Region) (rs : List Region) : Prop := ∀ q ∈ rs, q.hi ≤ r.lo ∨ r.hi ≤ q.lo

theorem insertRegion_spec (rs : List Region) (r : Region) (hr : r.lo < r.hi ∧ r.hi ≤ addressLimit)
    (h : RegionsRise rs) (ho : OutsideAll r rs) :
    RegionsRise (insertRegion r rs) ∧
    (∀ a, drawAt (insertRegion r rs) a = if r.lo ≤ a ∧ a < r.hi then some r.draw else drawAt rs a) ∧
    (∀ x ∈ insertRegion r rs, (r.lo ≤ x.lo ∨ ∃ q ∈ rs, q.lo ≤ x.lo)) := by
  induction rs generalizing r with
  | nil =>
    refine ⟨⟨by simp [insertRegion], by simpa [insertRegion] using hr⟩, fun a => ?_, by simp [insertRegion]⟩
    simp [insertRegion, drawAt_cons]
  | cons q qs ih =>
    obtain ⟨hq, hqs⟩ := List.pairwise_cons.1 h.1
    have hq0 := h.2 q (by simp)
    have hrest : RegionsRise qs := ⟨hqs, fun x hx => h.2 x (by simp [hx])⟩
    have hoq := ho q (by simp)
    have hoqs : OutsideAll r qs := fun x hx => ho x (by simp [hx])
    simp only [insertRegion]
    split
    · rename_i hlt
      obtain ⟨i1, i2, i3⟩ := ih r hr hrest hoqs
      refine ⟨⟨List.pairwise_cons.2 ⟨fun x hx => ?_, i1.1⟩, fun x hx => ?_⟩, fun a => ?_, fun x hx => ?_⟩
      · rcases i3 x hx with h1 | ⟨y, hy, h1⟩
        · left; omega
        · rcases hq y hy with h2 | ⟨h2, h3⟩
          · left; omega
          · by_cases ht : q.hi < x.lo
            · exact .inl ht
            · have hxlo : x.lo = y.lo := by omega
              have hx' := i2 x.lo
              have hxm := drawAt_of_mem i1 hx
              have hym := drawAt_of_mem hrest hy
              have hnr : ¬(r.lo ≤ x.lo ∧ x.lo < r.hi) := by omega
              rw [hxm, if_neg hnr, hxlo, hym] at hx'
              refine .inr ⟨by omega, ?_⟩
              simp only [Option.some.injEq] at hx'
              rw [hx']
              exact h3
      · rcases List.mem_cons.1 hx with rfl | hx
        · exact hq0
        · exact i1.2 x hx
      · rw [drawAt_cons, i2, drawAt_cons]
        split_ifs <;> first | rfl | (exfalso; omega)
      · rcases List.mem_cons.1 hx with rfl | hx
        · exact .inr ⟨x, by simp, Nat.le_refl _⟩
        · rcases i3 x hx with h1 | ⟨y, hy, h1⟩
          · exact .inl h1
          · exact .inr ⟨y, by simp [hy], h1⟩
    · split
      · rename_i hlt heq
        split
        · rename_i hd
          obtain ⟨i1, i2, i3⟩ := ih { r with lo := q.lo } ⟨by simp only; omega, hr.2⟩ hrest
            (fun x hx => by
              have := hq x hx
              have := hoqs x hx
              have := hrest.2 x hx
              simp only
              omega)
          refine ⟨i1, fun a => ?_, fun x hx => ?_⟩
          · rw [i2, drawAt_cons]
            simp only
            split_ifs <;> first | rfl | (exfalso; omega) | (rw [hd])
          · rcases i3 x hx with h1 | ⟨y, hy, h1⟩
            · exact .inr ⟨q, by simp, h1⟩
            · exact .inr ⟨y, by simp [hy], h1⟩
        · rename_i hd
          obtain ⟨i1, i2, i3⟩ := ih r hr hrest hoqs
          have hall : ∀ x ∈ qs, r.hi ≤ x.lo := fun x hx => by
            have := hq x hx
            have := hoqs x hx
            have := hrest.2 x hx
            omega
          refine ⟨⟨List.pairwise_cons.2 ⟨fun x hx => ?_, i1.1⟩, fun x hx => ?_⟩, fun a => ?_, fun x hx => ?_⟩
          · rcases i3 x hx with h1 | ⟨y, hy, h1⟩
            · by_cases ht : q.hi < x.lo
              · exact .inl ht
              · have hx' := i2 x.lo
                have hx0 := i1.2 x hx
                have hxm := drawAt_of_mem i1 hx
                rw [hxm, if_pos (by omega)] at hx'
                simp only [Option.some.injEq] at hx'
                exact .inr ⟨by omega, by rw [hx']; exact hd⟩
            · have := hall y hy
              left; omega
          · rcases List.mem_cons.1 hx with rfl | hx
            · exact hq0
            · exact i1.2 x hx
          · rw [drawAt_cons, i2, drawAt_cons]
            split_ifs <;> first | rfl | (exfalso; omega)
          · rcases List.mem_cons.1 hx with rfl | hx
            · exact .inr ⟨x, by simp, Nat.le_refl _⟩
            · rcases i3 x hx with h1 | ⟨y, hy, h1⟩
              · exact .inl h1
              · exact .inr ⟨y, by simp [hy], h1⟩
      · rename_i hlt hne
        have hle : r.hi ≤ q.lo := by omega
        split
        · rename_i hd
          refine ⟨⟨List.pairwise_cons.2 ⟨fun x hx => ?_, hqs⟩, fun x hx => ?_⟩, fun a => ?_, fun x hx => ?_⟩
          · simpa only [hd.2] using hq x hx
          · rcases List.mem_cons.1 hx with rfl | hx
            · simp only; omega
            · exact hrest.2 x hx
          · rw [drawAt_cons, drawAt_cons]
            simp only
            split_ifs <;> first | rfl | (exfalso; omega) | (rw [hd.2])
          · rcases List.mem_cons.1 hx with rfl | hx
            · exact .inl (Nat.le_refl _)
            · exact .inr ⟨x, by simp [hx], Nat.le_refl _⟩
        · rename_i hd
          refine ⟨⟨List.pairwise_cons.2 ⟨fun x hx => ?_, h.1⟩, fun x hx => ?_⟩, fun a => ?_, fun x hx => ?_⟩
          · rcases List.mem_cons.1 hx with rfl | hx
            · by_cases ht : r.hi < x.lo
              · exact .inl ht
              · exact .inr ⟨by omega, fun he => hd ⟨by omega, he⟩⟩
            · have := hq x hx
              left; omega
          · rcases List.mem_cons.1 hx with rfl | hx
            · exact hr
            · exact h.2 x hx
          · rw [drawAt_cons]
          · rcases List.mem_cons.1 hx with rfl | hx
            · exact .inl (Nat.le_refl _)
            · exact .inr ⟨x, hx, Nat.le_refl _⟩

/-! ### Reading after an operation -/

/-- A read after a write gives the written byte there and the earlier byte elsewhere. -/
theorem readByte_writeByte (m : Memory) (a x : Nat) (b : Byte) :
    readByte (writeByte m a b) x = if x = a ∧ a < addressLimit then b else readByte m x := by
  unfold writeByte
  split
  · rename_i ha
    have hun (cs : List Host.Cell) :
        unlistedByte { cells := cs, regions := carve a (a + 1) m.regions } x
        = if x = a then 0 else unlistedByte m x := by
      rw [unlistedByte_eq, unlistedByte_eq]
      simp only [drawAt_carve]
      by_cases hx : x = a
      · subst hx; simp
      · have : ¬(a ≤ x ∧ x < a + 1) := by omega
        simp only [this, hx, if_false]
    simp only [readByte, hun]
    by_cases hb : b = 0
    · simp only [hb, if_true, lookupCell_eraseCell]
      by_cases hx : x = a <;> simp [hx, ha]
    · simp only [hb, if_false, lookupCell_insertCell]
      by_cases hx : x = a <;> simp [hx, ha]
  · rename_i ha
    simp [ha]

theorem lookupCell_filter (cs : List Host.Cell) (p : Nat → Bool) (x : Nat) :
    lookupCell (cs.filter fun c => p c.1) x = if p x then lookupCell cs x else none := by
  induction cs with
  | nil => simp [lookupCell]
  | cons c cs ih =>
    obtain ⟨k, b⟩ := c
    by_cases hk : p k
    · simp only [List.filter_cons, hk, if_true, lookupCell, ih]
      by_cases hx : k = x
      · simp [← hx, hk]
      · simp [hx]
    · simp only [List.filter_cons, hk, Bool.false_eq_true, if_false, ih, lookupCell]
      by_cases hx : k = x
      · simp [← hx, hk]
      · simp [hx]

theorem carve_outside {lo hi d : Nat} {rs : List Region} :
    OutsideAll { lo := lo, hi := hi, draw := d } (carve lo hi rs) := by
  intro q hq
  obtain ⟨_, _, _, _, _, _, h⟩ := mem_carve hq
  exact h

/-- A read after a free draw gives the free byte in the range and the earlier byte elsewhere. -/
theorem readByte_havoc {m : Memory} (hm : m.wf) (r : Range) (d x : Nat) :
    readByte (havoc m r d) x =
      if r.lo ≤ x ∧ x < min r.hi addressLimit then Config.freeByte d x else readByte m x := by
  unfold havoc
  split
  · rename_i hlt
    have hspec := insertRegion_spec (carve r.lo (min r.hi addressLimit) m.regions)
      { lo := r.lo, hi := min r.hi addressLimit, draw := d } ⟨hlt, Nat.min_le_right _ _⟩
      (carve_rises hlt ⟨hm.2.2.1, hm.2.2.2⟩) carve_outside
    simp only [readByte]
    rw [lookupCell_filter m.cells (fun a => !inRange ⟨r.lo, min r.hi addressLimit⟩ a),
      unlistedByte_eq, hspec.2.1, unlistedByte_eq]
    simp only [drawAt_carve, inRange]
    by_cases hx : r.lo ≤ x ∧ x < min r.hi addressLimit
    · simp only [hx, and_self, decide_true, Bool.not_true, Bool.false_eq_true, if_false, if_true]
    · simp only [hx, decide_false, Bool.not_false, if_true, if_false]
  · rename_i hlt
    rw [if_neg (by omega)]

/-- Outside the ranges a free draw leaves every byte as it was. -/
theorem readByte_havocAll_outside {rs : List Range} {d x : Nat} :
    ∀ {m : Memory}, m.wf → inRanges rs x = false → (∀ m' : Memory, ∀ r, m'.wf → (havoc m' r d).wf) →
      readByte (havocAll m rs d) x = readByte m x := by
  induction rs with
  | nil => intro m _ _ _; rfl
  | cons r rs ih =>
    intro m hm hx hk
    simp only [inRanges, List.any_cons, Bool.or_eq_false_iff] at hx
    have hr : ¬(r.lo ≤ x ∧ x < min r.hi addressLimit) := by
      have := hx.1
      simp only [inRange, decide_eq_false_iff_not] at this
      omega
    have : readByte (havocAll (havoc m r d) rs d) x = readByte (havoc m r d) x :=
      ih (hk m r hm) hx.2 hk
    simp only [havocAll, List.foldl_cons] at this ⊢
    rw [this, readByte_havoc hm, if_neg hr]

/-! ### The canonical form -/

theorem writeByte_wf {m : Memory} (hm : m.wf) (a : Nat) (b : Byte) : (writeByte m a b).wf := by
  unfold writeByte
  split
  · rename_i ha
    obtain ⟨h1, h2, h3, h4⟩ := hm
    have hc := carve_rises (lo := a) (hi := a + 1) (by omega) ⟨h3, h4⟩
    have hout : ∀ c : Host.Cell, (∀ r ∈ m.regions, ¬(r.lo ≤ c.1 ∧ c.1 < r.hi)) →
        ∀ q ∈ carve a (a + 1) m.regions, ¬(q.lo ≤ c.1 ∧ c.1 < q.hi) := by
      intro c hc q hq hin
      obtain ⟨r, hr, h⟩ := mem_carve hq
      exact hc r hr (by omega)
    refine ⟨?_, ?_, hc.1, hc.2⟩
    · show List.Pairwise _ (if b = 0 then eraseCell m.cells a else insertCell m.cells a b)
      split
      · exact h1.filter _
      · exact insertCell_rises h1
    · show ∀ c ∈ (if b = 0 then eraseCell m.cells a else insertCell m.cells a b), _
      intro c hcm
      split at hcm
      · have hcm' := (List.mem_filter.1 hcm).1
        exact ⟨(h2 c hcm').1, (h2 c hcm').2.1, hout c (h2 c hcm').2.2⟩
      · rename_i hb
        have old (h : c ∈ m.cells) : c.1 < addressLimit ∧ c.2 ≠ 0 ∧
            ∀ q ∈ carve a (a + 1) m.regions, ¬(q.lo ≤ c.1 ∧ c.1 < q.hi) :=
          ⟨(h2 c h).1, (h2 c h).2.1, hout c (h2 c h).2.2⟩
        rcases mem_insertCell hcm with rfl | h | h
        · refine ⟨ha, hb, ?_⟩
          intro q hq hin
          obtain ⟨_, _, h⟩ := mem_carve hq
          simp only at hin
          omega
        · exact old h.1
        · exact old h
  · exact hm

theorem havoc_wf {m : Memory} (hm : m.wf) (r : Range) (d : Nat) : (havoc m r d).wf := by
  unfold havoc
  split
  · rename_i hlt
    obtain ⟨h1, h2, h3, h4⟩ := hm
    have hspec := insertRegion_spec (carve r.lo (min r.hi addressLimit) m.regions)
      { lo := r.lo, hi := min r.hi addressLimit, draw := d } ⟨hlt, Nat.min_le_right _ _⟩
      (carve_rises hlt ⟨h3, h4⟩) carve_outside
    refine ⟨h1.filter _, fun c hc => ?_, hspec.1.1, hspec.1.2⟩
    obtain ⟨hc, hp⟩ := List.mem_filter.1 hc
    refine ⟨(h2 c hc).1, (h2 c hc).2.1, ?_⟩
    have hn : drawAt (insertRegion { lo := r.lo, hi := min r.hi addressLimit, draw := d }
        (carve r.lo (min r.hi addressLimit) m.regions)) c.1 = none := by
      rw [hspec.2.1, drawAt_carve]
      simp only [inRange, Bool.not_eq_true', decide_eq_false_iff_not] at hp
      rw [if_neg hp, if_neg hp, drawAt_none]
      exact (h2 c hc).2.2
    exact drawAt_none.1 hn
  · exact hm

theorem havocAll_wf {m : Memory} (hm : m.wf) (rs : List Range) (d : Nat) : (havocAll m rs d).wf := by
  induction rs generalizing m with
  | nil => exact hm
  | cons r rs ih => exact ih (havoc_wf hm r d)

/-- Outside its ranges `havocAll` changes no byte. -/
theorem readByte_havocAll {m : Memory} (hm : m.wf) {rs : List Range} {x : Nat} (d : Nat)
    (hx : inRanges rs x = false) : readByte (havocAll m rs d) x = readByte m x :=
  readByte_havocAll_outside hm hx fun _ _ h => havoc_wf h _ _

end Sys2Proof.Machine
end

