-- ==== Sys2Proof/Laws/State.lean ====
section
/-! SUPPORT. What each named update of State does to each field, one lemma per field, true by rfl. -/

namespace Sys2Proof.Machine

/-! ### closeWriter -/

@[simp] theorem closeWriter_irqEn (s : State) : (closeWriter s).irqEn = s.irqEn := rfl
@[simp] theorem closeWriter_busy (s : State) : (closeWriter s).busy = s.busy := rfl
@[simp] theorem closeWriter_done (s : State) : (closeWriter s).done = s.done := rfl
@[simp] theorem closeWriter_err (s : State) : (closeWriter s).err = s.err := rfl
@[simp] theorem closeWriter_overrun (s : State) : (closeWriter s).overrun = s.overrun := rfl
@[simp] theorem closeWriter_treeValid (s : State) : (closeWriter s).treeValid = s.treeValid := rfl
@[simp] theorem closeWriter_canonValid (s : State) : (closeWriter s).canonValid = s.canonValid := rfl
@[simp] theorem closeWriter_errcode (s : State) : (closeWriter s).errcode = s.errcode := rfl
@[simp] theorem closeWriter_errinfo (s : State) : (closeWriter s).errinfo = s.errinfo := rfl
@[simp] theorem closeWriter_arg (s : State) : (closeWriter s).arg = s.arg := rfl
@[simp] theorem closeWriter_res (s : State) : (closeWriter s).res = s.res := rfl
@[simp] theorem closeWriter_latch (s : State) : (closeWriter s).latch = s.latch := rfl
@[simp] theorem closeWriter_freq (s : State) : (closeWriter s).freq = s.freq := rfl
@[simp] theorem closeWriter_len (s : State) : (closeWriter s).len = s.len := rfl
@[simp] theorem closeWriter_tree (s : State) : (closeWriter s).tree = s.tree := rfl
@[simp] theorem closeWriter_canon (s : State) : (closeWriter s).canon = s.canon := rfl
@[simp] theorem closeWriter_writer (s : State) : (closeWriter s).writer = Writer.closed := rfl
@[simp] theorem closeWriter_reader (s : State) : (closeWriter s).reader = s.reader := rfl
@[simp] theorem closeWriter_create (s : State) : (closeWriter s).create = s.create := rfl
@[simp] theorem closeWriter_reading (s : State) : (closeWriter s).reading = s.reading := rfl
@[simp] theorem closeWriter_mem (s : State) : (closeWriter s).mem = s.mem := rfl
@[simp] theorem closeWriter_params (s : State) : (closeWriter s).params = s.params := rfl
@[simp] theorem closeWriter_resetHeld (s : State) : (closeWriter s).resetHeld = s.resetHeld := rfl
@[simp] theorem closeWriter_inputs (s : State) : (closeWriter s).inputs = s.inputs := rfl
@[simp] theorem closeWriter_responses (s : State) : (closeWriter s).responses = s.responses := rfl
@[simp] theorem closeWriter_delay (s : State) : (closeWriter s).delay = s.delay := rfl
@[simp] theorem closeWriter_raced (s : State) : (closeWriter s).raced = s.raced := rfl
@[simp] theorem closeWriter_draws (s : State) : (closeWriter s).draws = s.draws := rfl

/-! ### closeReader -/

@[simp] theorem closeReader_irqEn (s : State) : (closeReader s).irqEn = s.irqEn := rfl
@[simp] theorem closeReader_busy (s : State) : (closeReader s).busy = s.busy := rfl
@[simp] theorem closeReader_done (s : State) : (closeReader s).done = s.done := rfl
@[simp] theorem closeReader_err (s : State) : (closeReader s).err = s.err := rfl
@[simp] theorem closeReader_overrun (s : State) : (closeReader s).overrun = s.overrun := rfl
@[simp] theorem closeReader_treeValid (s : State) : (closeReader s).treeValid = s.treeValid := rfl
@[simp] theorem closeReader_canonValid (s : State) : (closeReader s).canonValid = s.canonValid := rfl
@[simp] theorem closeReader_errcode (s : State) : (closeReader s).errcode = s.errcode := rfl
@[simp] theorem closeReader_errinfo (s : State) : (closeReader s).errinfo = s.errinfo := rfl
@[simp] theorem closeReader_arg (s : State) : (closeReader s).arg = s.arg := rfl
@[simp] theorem closeReader_res (s : State) : (closeReader s).res = s.res := rfl
@[simp] theorem closeReader_latch (s : State) : (closeReader s).latch = s.latch := rfl
@[simp] theorem closeReader_freq (s : State) : (closeReader s).freq = s.freq := rfl
@[simp] theorem closeReader_len (s : State) : (closeReader s).len = s.len := rfl
@[simp] theorem closeReader_tree (s : State) : (closeReader s).tree = s.tree := rfl
@[simp] theorem closeReader_canon (s : State) : (closeReader s).canon = s.canon := rfl
@[simp] theorem closeReader_writer (s : State) : (closeReader s).writer = s.writer := rfl
@[simp] theorem closeReader_reader (s : State) : (closeReader s).reader = Reader.closed := rfl
@[simp] theorem closeReader_create (s : State) : (closeReader s).create = s.create := rfl
@[simp] theorem closeReader_reading (s : State) : (closeReader s).reading = s.reading := rfl
@[simp] theorem closeReader_mem (s : State) : (closeReader s).mem = s.mem := rfl
@[simp] theorem closeReader_params (s : State) : (closeReader s).params = s.params := rfl
@[simp] theorem closeReader_resetHeld (s : State) : (closeReader s).resetHeld = s.resetHeld := rfl
@[simp] theorem closeReader_inputs (s : State) : (closeReader s).inputs = s.inputs := rfl
@[simp] theorem closeReader_responses (s : State) : (closeReader s).responses = s.responses := rfl
@[simp] theorem closeReader_delay (s : State) : (closeReader s).delay = s.delay := rfl
@[simp] theorem closeReader_raced (s : State) : (closeReader s).raced = s.raced := rfl
@[simp] theorem closeReader_draws (s : State) : (closeReader s).draws = s.draws := rfl

/-! ### closeCreate -/

@[simp] theorem closeCreate_irqEn (s : State) : (closeCreate s).irqEn = s.irqEn := rfl
@[simp] theorem closeCreate_busy (s : State) : (closeCreate s).busy = s.busy := rfl
@[simp] theorem closeCreate_done (s : State) : (closeCreate s).done = s.done := rfl
@[simp] theorem closeCreate_err (s : State) : (closeCreate s).err = s.err := rfl
@[simp] theorem closeCreate_overrun (s : State) : (closeCreate s).overrun = s.overrun := rfl
@[simp] theorem closeCreate_treeValid (s : State) : (closeCreate s).treeValid = s.treeValid := rfl
@[simp] theorem closeCreate_canonValid (s : State) : (closeCreate s).canonValid = s.canonValid := rfl
@[simp] theorem closeCreate_errcode (s : State) : (closeCreate s).errcode = s.errcode := rfl
@[simp] theorem closeCreate_errinfo (s : State) : (closeCreate s).errinfo = s.errinfo := rfl
@[simp] theorem closeCreate_arg (s : State) : (closeCreate s).arg = s.arg := rfl
@[simp] theorem closeCreate_res (s : State) : (closeCreate s).res = s.res := rfl
@[simp] theorem closeCreate_latch (s : State) : (closeCreate s).latch = s.latch := rfl
@[simp] theorem closeCreate_freq (s : State) : (closeCreate s).freq = s.freq := rfl
@[simp] theorem closeCreate_len (s : State) : (closeCreate s).len = s.len := rfl
@[simp] theorem closeCreate_tree (s : State) : (closeCreate s).tree = s.tree := rfl
@[simp] theorem closeCreate_canon (s : State) : (closeCreate s).canon = s.canon := rfl
@[simp] theorem closeCreate_writer (s : State) : (closeCreate s).writer = s.writer := rfl
@[simp] theorem closeCreate_reader (s : State) : (closeCreate s).reader = s.reader := rfl
@[simp] theorem closeCreate_create (s : State) :
    (closeCreate s).create = { Create.zero with afail := s.create.afail, partialAdd := s.create.partialAdd } := rfl
@[simp] theorem closeCreate_reading (s : State) : (closeCreate s).reading = s.reading := rfl
@[simp] theorem closeCreate_mem (s : State) : (closeCreate s).mem = s.mem := rfl
@[simp] theorem closeCreate_params (s : State) : (closeCreate s).params = s.params := rfl
@[simp] theorem closeCreate_resetHeld (s : State) : (closeCreate s).resetHeld = s.resetHeld := rfl
@[simp] theorem closeCreate_inputs (s : State) : (closeCreate s).inputs = s.inputs := rfl
@[simp] theorem closeCreate_responses (s : State) : (closeCreate s).responses = s.responses := rfl
@[simp] theorem closeCreate_delay (s : State) : (closeCreate s).delay = s.delay := rfl
@[simp] theorem closeCreate_raced (s : State) : (closeCreate s).raced = s.raced := rfl
@[simp] theorem closeCreate_draws (s : State) : (closeCreate s).draws = s.draws := rfl

/-! ### closeReading -/

@[simp] theorem closeReading_irqEn (s : State) : (closeReading s).irqEn = s.irqEn := rfl
@[simp] theorem closeReading_busy (s : State) : (closeReading s).busy = s.busy := rfl
@[simp] theorem closeReading_done (s : State) : (closeReading s).done = s.done := rfl
@[simp] theorem closeReading_err (s : State) : (closeReading s).err = s.err := rfl
@[simp] theorem closeReading_overrun (s : State) : (closeReading s).overrun = s.overrun := rfl
@[simp] theorem closeReading_treeValid (s : State) : (closeReading s).treeValid = s.treeValid := rfl
@[simp] theorem closeReading_canonValid (s : State) : (closeReading s).canonValid = s.canonValid := rfl
@[simp] theorem closeReading_errcode (s : State) : (closeReading s).errcode = s.errcode := rfl
@[simp] theorem closeReading_errinfo (s : State) : (closeReading s).errinfo = s.errinfo := rfl
@[simp] theorem closeReading_arg (s : State) : (closeReading s).arg = s.arg := rfl
@[simp] theorem closeReading_res (s : State) : (closeReading s).res = s.res := rfl
@[simp] theorem closeReading_latch (s : State) : (closeReading s).latch = s.latch := rfl
@[simp] theorem closeReading_freq (s : State) : (closeReading s).freq = s.freq := rfl
@[simp] theorem closeReading_len (s : State) : (closeReading s).len = s.len := rfl
@[simp] theorem closeReading_tree (s : State) : (closeReading s).tree = s.tree := rfl
@[simp] theorem closeReading_canon (s : State) : (closeReading s).canon = s.canon := rfl
@[simp] theorem closeReading_writer (s : State) : (closeReading s).writer = s.writer := rfl
@[simp] theorem closeReading_reader (s : State) : (closeReading s).reader = s.reader := rfl
@[simp] theorem closeReading_create (s : State) : (closeReading s).create = s.create := rfl
@[simp] theorem closeReading_reading (s : State) : (closeReading s).reading = Reading.closed := rfl
@[simp] theorem closeReading_mem (s : State) : (closeReading s).mem = s.mem := rfl
@[simp] theorem closeReading_params (s : State) : (closeReading s).params = s.params := rfl
@[simp] theorem closeReading_resetHeld (s : State) : (closeReading s).resetHeld = s.resetHeld := rfl
@[simp] theorem closeReading_inputs (s : State) : (closeReading s).inputs = s.inputs := rfl
@[simp] theorem closeReading_responses (s : State) : (closeReading s).responses = s.responses := rfl
@[simp] theorem closeReading_delay (s : State) : (closeReading s).delay = s.delay := rfl
@[simp] theorem closeReading_raced (s : State) : (closeReading s).raced = s.raced := rfl
@[simp] theorem closeReading_draws (s : State) : (closeReading s).draws = s.draws := rfl

/-! ### noteFailedAdd -/

@[simp] theorem noteFailedAdd_irqEn (s : State) : (noteFailedAdd s).irqEn = s.irqEn := rfl
@[simp] theorem noteFailedAdd_busy (s : State) : (noteFailedAdd s).busy = s.busy := rfl
@[simp] theorem noteFailedAdd_done (s : State) : (noteFailedAdd s).done = s.done := rfl
@[simp] theorem noteFailedAdd_err (s : State) : (noteFailedAdd s).err = s.err := rfl
@[simp] theorem noteFailedAdd_overrun (s : State) : (noteFailedAdd s).overrun = s.overrun := rfl
@[simp] theorem noteFailedAdd_treeValid (s : State) : (noteFailedAdd s).treeValid = s.treeValid := rfl
@[simp] theorem noteFailedAdd_canonValid (s : State) :
    (noteFailedAdd s).canonValid = s.canonValid := rfl
@[simp] theorem noteFailedAdd_errcode (s : State) : (noteFailedAdd s).errcode = s.errcode := rfl
@[simp] theorem noteFailedAdd_errinfo (s : State) : (noteFailedAdd s).errinfo = s.errinfo := rfl
@[simp] theorem noteFailedAdd_arg (s : State) : (noteFailedAdd s).arg = s.arg := rfl
@[simp] theorem noteFailedAdd_res (s : State) : (noteFailedAdd s).res = s.res := rfl
@[simp] theorem noteFailedAdd_latch (s : State) : (noteFailedAdd s).latch = s.latch := rfl
@[simp] theorem noteFailedAdd_freq (s : State) : (noteFailedAdd s).freq = s.freq := rfl
@[simp] theorem noteFailedAdd_len (s : State) : (noteFailedAdd s).len = s.len := rfl
@[simp] theorem noteFailedAdd_tree (s : State) : (noteFailedAdd s).tree = s.tree := rfl
@[simp] theorem noteFailedAdd_canon (s : State) : (noteFailedAdd s).canon = s.canon := rfl
@[simp] theorem noteFailedAdd_writer (s : State) : (noteFailedAdd s).writer = s.writer := rfl
@[simp] theorem noteFailedAdd_reader (s : State) : (noteFailedAdd s).reader = s.reader := rfl
@[simp] theorem noteFailedAdd_create (s : State) :
    (noteFailedAdd s).create = { s.create with partialAdd := true, afail := bumpFail s.create.afail } := rfl
@[simp] theorem noteFailedAdd_reading (s : State) : (noteFailedAdd s).reading = s.reading := rfl
@[simp] theorem noteFailedAdd_mem (s : State) : (noteFailedAdd s).mem = s.mem := rfl
@[simp] theorem noteFailedAdd_params (s : State) : (noteFailedAdd s).params = s.params := rfl
@[simp] theorem noteFailedAdd_resetHeld (s : State) : (noteFailedAdd s).resetHeld = s.resetHeld := rfl
@[simp] theorem noteFailedAdd_inputs (s : State) : (noteFailedAdd s).inputs = s.inputs := rfl
@[simp] theorem noteFailedAdd_responses (s : State) : (noteFailedAdd s).responses = s.responses := rfl
@[simp] theorem noteFailedAdd_delay (s : State) : (noteFailedAdd s).delay = s.delay := rfl
@[simp] theorem noteFailedAdd_raced (s : State) : (noteFailedAdd s).raced = s.raced := rfl
@[simp] theorem noteFailedAdd_draws (s : State) : (noteFailedAdd s).draws = s.draws := rfl

/-! ### abandonCreate -/

@[simp] theorem abandonCreate_irqEn (s : State) : (abandonCreate s).irqEn = s.irqEn := rfl
@[simp] theorem abandonCreate_busy (s : State) : (abandonCreate s).busy = s.busy := rfl
@[simp] theorem abandonCreate_done (s : State) : (abandonCreate s).done = s.done := rfl
@[simp] theorem abandonCreate_err (s : State) : (abandonCreate s).err = s.err := rfl
@[simp] theorem abandonCreate_overrun (s : State) : (abandonCreate s).overrun = s.overrun := rfl
@[simp] theorem abandonCreate_treeValid (s : State) : (abandonCreate s).treeValid = s.treeValid := rfl
@[simp] theorem abandonCreate_canonValid (s : State) :
    (abandonCreate s).canonValid = s.canonValid := rfl
@[simp] theorem abandonCreate_errcode (s : State) : (abandonCreate s).errcode = s.errcode := rfl
@[simp] theorem abandonCreate_errinfo (s : State) : (abandonCreate s).errinfo = s.errinfo := rfl
@[simp] theorem abandonCreate_arg (s : State) : (abandonCreate s).arg = s.arg := rfl
@[simp] theorem abandonCreate_res (s : State) : (abandonCreate s).res = s.res := rfl
@[simp] theorem abandonCreate_latch (s : State) : (abandonCreate s).latch = s.latch := rfl
@[simp] theorem abandonCreate_freq (s : State) : (abandonCreate s).freq = s.freq := rfl
@[simp] theorem abandonCreate_len (s : State) : (abandonCreate s).len = s.len := rfl
@[simp] theorem abandonCreate_tree (s : State) : (abandonCreate s).tree = s.tree := rfl
@[simp] theorem abandonCreate_canon (s : State) : (abandonCreate s).canon = s.canon := rfl
@[simp] theorem abandonCreate_writer (s : State) : (abandonCreate s).writer = s.writer := rfl
@[simp] theorem abandonCreate_reader (s : State) : (abandonCreate s).reader = s.reader := rfl
@[simp] theorem abandonCreate_create (s : State) : (abandonCreate s).create = Create.zero := rfl
@[simp] theorem abandonCreate_reading (s : State) : (abandonCreate s).reading = s.reading := rfl
@[simp] theorem abandonCreate_mem (s : State) : (abandonCreate s).mem = s.mem := rfl
@[simp] theorem abandonCreate_params (s : State) : (abandonCreate s).params = s.params := rfl
@[simp] theorem abandonCreate_resetHeld (s : State) : (abandonCreate s).resetHeld = s.resetHeld := rfl
@[simp] theorem abandonCreate_inputs (s : State) : (abandonCreate s).inputs = s.inputs := rfl
@[simp] theorem abandonCreate_responses (s : State) : (abandonCreate s).responses = s.responses := rfl
@[simp] theorem abandonCreate_delay (s : State) : (abandonCreate s).delay = s.delay := rfl
@[simp] theorem abandonCreate_raced (s : State) : (abandonCreate s).raced = s.raced := rfl
@[simp] theorem abandonCreate_draws (s : State) : (abandonCreate s).draws = s.draws := rfl

/-! ### withTree -/

@[simp] theorem withTree_irqEn (s : State) (t : Tree) : (withTree s t).irqEn = s.irqEn := rfl
@[simp] theorem withTree_busy (s : State) (t : Tree) : (withTree s t).busy = s.busy := rfl
@[simp] theorem withTree_done (s : State) (t : Tree) : (withTree s t).done = s.done := rfl
@[simp] theorem withTree_err (s : State) (t : Tree) : (withTree s t).err = s.err := rfl
@[simp] theorem withTree_overrun (s : State) (t : Tree) : (withTree s t).overrun = s.overrun := rfl
@[simp] theorem withTree_treeValid (s : State) (t : Tree) : (withTree s t).treeValid = true := rfl
@[simp] theorem withTree_canonValid (s : State) (t : Tree) :
    (withTree s t).canonValid = s.canonValid := rfl
@[simp] theorem withTree_errcode (s : State) (t : Tree) : (withTree s t).errcode = s.errcode := rfl
@[simp] theorem withTree_errinfo (s : State) (t : Tree) : (withTree s t).errinfo = s.errinfo := rfl
@[simp] theorem withTree_arg (s : State) (t : Tree) : (withTree s t).arg = s.arg := rfl
@[simp] theorem withTree_res (s : State) (t : Tree) : (withTree s t).res = s.res := rfl
@[simp] theorem withTree_latch (s : State) (t : Tree) : (withTree s t).latch = s.latch := rfl
@[simp] theorem withTree_freq (s : State) (t : Tree) : (withTree s t).freq = s.freq := rfl
@[simp] theorem withTree_len (s : State) (t : Tree) : (withTree s t).len = s.len := rfl
@[simp] theorem withTree_tree (s : State) (t : Tree) : (withTree s t).tree = t := rfl
@[simp] theorem withTree_canon (s : State) (t : Tree) : (withTree s t).canon = s.canon := rfl
@[simp] theorem withTree_writer (s : State) (t : Tree) : (withTree s t).writer = s.writer := rfl
@[simp] theorem withTree_reader (s : State) (t : Tree) : (withTree s t).reader = s.reader := rfl
@[simp] theorem withTree_create (s : State) (t : Tree) : (withTree s t).create = s.create := rfl
@[simp] theorem withTree_reading (s : State) (t : Tree) : (withTree s t).reading = s.reading := rfl
@[simp] theorem withTree_mem (s : State) (t : Tree) : (withTree s t).mem = s.mem := rfl
@[simp] theorem withTree_params (s : State) (t : Tree) : (withTree s t).params = s.params := rfl
@[simp] theorem withTree_resetHeld (s : State) (t : Tree) :
    (withTree s t).resetHeld = s.resetHeld := rfl
@[simp] theorem withTree_inputs (s : State) (t : Tree) : (withTree s t).inputs = s.inputs := rfl
@[simp] theorem withTree_responses (s : State) (t : Tree) :
    (withTree s t).responses = s.responses := rfl
@[simp] theorem withTree_delay (s : State) (t : Tree) : (withTree s t).delay = s.delay := rfl
@[simp] theorem withTree_raced (s : State) (t : Tree) : (withTree s t).raced = s.raced := rfl
@[simp] theorem withTree_draws (s : State) (t : Tree) : (withTree s t).draws = s.draws := rfl

/-! ### withLengths -/

@[simp] theorem withLengths_irqEn (s : State) (l : Vector Byte 256) :
    (withLengths s l).irqEn = s.irqEn := rfl
@[simp] theorem withLengths_busy (s : State) (l : Vector Byte 256) :
    (withLengths s l).busy = s.busy := rfl
@[simp] theorem withLengths_done (s : State) (l : Vector Byte 256) :
    (withLengths s l).done = s.done := rfl
@[simp] theorem withLengths_err (s : State) (l : Vector Byte 256) : (withLengths s l).err = s.err := rfl
@[simp] theorem withLengths_overrun (s : State) (l : Vector Byte 256) :
    (withLengths s l).overrun = s.overrun := rfl
@[simp] theorem withLengths_treeValid (s : State) (l : Vector Byte 256) :
    (withLengths s l).treeValid = s.treeValid := rfl
@[simp] theorem withLengths_canonValid (s : State) (l : Vector Byte 256) :
    (withLengths s l).canonValid = false := rfl
@[simp] theorem withLengths_errcode (s : State) (l : Vector Byte 256) :
    (withLengths s l).errcode = s.errcode := rfl
@[simp] theorem withLengths_errinfo (s : State) (l : Vector Byte 256) :
    (withLengths s l).errinfo = s.errinfo := rfl
@[simp] theorem withLengths_arg (s : State) (l : Vector Byte 256) : (withLengths s l).arg = s.arg := rfl
@[simp] theorem withLengths_res (s : State) (l : Vector Byte 256) : (withLengths s l).res = s.res := rfl
@[simp] theorem withLengths_latch (s : State) (l : Vector Byte 256) :
    (withLengths s l).latch = s.latch := rfl
@[simp] theorem withLengths_freq (s : State) (l : Vector Byte 256) :
    (withLengths s l).freq = s.freq := rfl
@[simp] theorem withLengths_len (s : State) (l : Vector Byte 256) : (withLengths s l).len = l := rfl
@[simp] theorem withLengths_tree (s : State) (l : Vector Byte 256) :
    (withLengths s l).tree = s.tree := rfl
@[simp] theorem withLengths_canon (s : State) (l : Vector Byte 256) :
    (withLengths s l).canon = s.canon := rfl
@[simp] theorem withLengths_writer (s : State) (l : Vector Byte 256) :
    (withLengths s l).writer = s.writer := rfl
@[simp] theorem withLengths_reader (s : State) (l : Vector Byte 256) :
    (withLengths s l).reader = s.reader := rfl
@[simp] theorem withLengths_create (s : State) (l : Vector Byte 256) :
    (withLengths s l).create = s.create := rfl
@[simp] theorem withLengths_reading (s : State) (l : Vector Byte 256) :
    (withLengths s l).reading = s.reading := rfl
@[simp] theorem withLengths_mem (s : State) (l : Vector Byte 256) : (withLengths s l).mem = s.mem := rfl
@[simp] theorem withLengths_params (s : State) (l : Vector Byte 256) :
    (withLengths s l).params = s.params := rfl
@[simp] theorem withLengths_resetHeld (s : State) (l : Vector Byte 256) :
    (withLengths s l).resetHeld = s.resetHeld := rfl
@[simp] theorem withLengths_inputs (s : State) (l : Vector Byte 256) :
    (withLengths s l).inputs = s.inputs := rfl
@[simp] theorem withLengths_responses (s : State) (l : Vector Byte 256) :
    (withLengths s l).responses = s.responses := rfl
@[simp] theorem withLengths_delay (s : State) (l : Vector Byte 256) :
    (withLengths s l).delay = s.delay := rfl
@[simp] theorem withLengths_raced (s : State) (l : Vector Byte 256) :
    (withLengths s l).raced = s.raced := rfl
@[simp] theorem withLengths_draws (s : State) (l : Vector Byte 256) :
    (withLengths s l).draws = s.draws := rfl

/-! ### withCanon -/

@[simp] theorem withCanon_irqEn (s : State) (c : Canon) : (withCanon s c).irqEn = s.irqEn := rfl
@[simp] theorem withCanon_busy (s : State) (c : Canon) : (withCanon s c).busy = s.busy := rfl
@[simp] theorem withCanon_done (s : State) (c : Canon) : (withCanon s c).done = s.done := rfl
@[simp] theorem withCanon_err (s : State) (c : Canon) : (withCanon s c).err = s.err := rfl
@[simp] theorem withCanon_overrun (s : State) (c : Canon) : (withCanon s c).overrun = s.overrun := rfl
@[simp] theorem withCanon_treeValid (s : State) (c : Canon) :
    (withCanon s c).treeValid = s.treeValid := rfl
@[simp] theorem withCanon_canonValid (s : State) (c : Canon) : (withCanon s c).canonValid = true := rfl
@[simp] theorem withCanon_errcode (s : State) (c : Canon) : (withCanon s c).errcode = s.errcode := rfl
@[simp] theorem withCanon_errinfo (s : State) (c : Canon) : (withCanon s c).errinfo = s.errinfo := rfl
@[simp] theorem withCanon_arg (s : State) (c : Canon) : (withCanon s c).arg = s.arg := rfl
@[simp] theorem withCanon_res (s : State) (c : Canon) : (withCanon s c).res = s.res := rfl
@[simp] theorem withCanon_latch (s : State) (c : Canon) : (withCanon s c).latch = s.latch := rfl
@[simp] theorem withCanon_freq (s : State) (c : Canon) : (withCanon s c).freq = s.freq := rfl
@[simp] theorem withCanon_len (s : State) (c : Canon) : (withCanon s c).len = s.len := rfl
@[simp] theorem withCanon_tree (s : State) (c : Canon) : (withCanon s c).tree = s.tree := rfl
@[simp] theorem withCanon_canon (s : State) (c : Canon) : (withCanon s c).canon = c := rfl
@[simp] theorem withCanon_writer (s : State) (c : Canon) : (withCanon s c).writer = s.writer := rfl
@[simp] theorem withCanon_reader (s : State) (c : Canon) : (withCanon s c).reader = s.reader := rfl
@[simp] theorem withCanon_create (s : State) (c : Canon) : (withCanon s c).create = s.create := rfl
@[simp] theorem withCanon_reading (s : State) (c : Canon) : (withCanon s c).reading = s.reading := rfl
@[simp] theorem withCanon_mem (s : State) (c : Canon) : (withCanon s c).mem = s.mem := rfl
@[simp] theorem withCanon_params (s : State) (c : Canon) : (withCanon s c).params = s.params := rfl
@[simp] theorem withCanon_resetHeld (s : State) (c : Canon) :
    (withCanon s c).resetHeld = s.resetHeld := rfl
@[simp] theorem withCanon_inputs (s : State) (c : Canon) : (withCanon s c).inputs = s.inputs := rfl
@[simp] theorem withCanon_responses (s : State) (c : Canon) :
    (withCanon s c).responses = s.responses := rfl
@[simp] theorem withCanon_delay (s : State) (c : Canon) : (withCanon s c).delay = s.delay := rfl
@[simp] theorem withCanon_raced (s : State) (c : Canon) : (withCanon s c).raced = s.raced := rfl
@[simp] theorem withCanon_draws (s : State) (c : Canon) : (withCanon s c).draws = s.draws := rfl

/-! ### completed -/

@[simp] theorem completed_irqEn (i : Instr) (s : State) (d : Done) :
    (completed i s d).irqEn = d.state.irqEn := rfl
@[simp] theorem completed_busy (i : Instr) (s : State) (d : Done) :
    (completed i s d).busy = false := rfl
@[simp] theorem completed_done (i : Instr) (s : State) (d : Done) : (completed i s d).done = true := rfl
@[simp] theorem completed_err (i : Instr) (s : State) (d : Done) :
    (completed i s d).err = d.state.err := rfl
@[simp] theorem completed_overrun (i : Instr) (s : State) (d : Done) :
    (completed i s d).overrun = d.state.overrun := rfl
@[simp] theorem completed_treeValid (i : Instr) (s : State) (d : Done) :
    (completed i s d).treeValid = d.state.treeValid := rfl
@[simp] theorem completed_canonValid (i : Instr) (s : State) (d : Done) :
    (completed i s d).canonValid = d.state.canonValid := rfl
@[simp] theorem completed_errcode (i : Instr) (s : State) (d : Done) :
    (completed i s d).errcode = d.state.errcode := rfl
@[simp] theorem completed_errinfo (i : Instr) (s : State) (d : Done) :
    (completed i s d).errinfo = d.state.errinfo := rfl
@[simp] theorem completed_arg (i : Instr) (s : State) (d : Done) :
    (completed i s d).arg = d.state.arg := rfl
@[simp] theorem completed_res (i : Instr) (s : State) (d : Done) :
    (completed i s d).res = results d.r0 d.r1 d.r2 d.r3 := rfl
@[simp] theorem completed_latch (i : Instr) (s : State) (d : Done) :
    (completed i s d).latch = d.state.latch := rfl
@[simp] theorem completed_freq (i : Instr) (s : State) (d : Done) :
    (completed i s d).freq = d.state.freq := rfl
@[simp] theorem completed_len (i : Instr) (s : State) (d : Done) :
    (completed i s d).len = d.state.len := rfl
@[simp] theorem completed_tree (i : Instr) (s : State) (d : Done) :
    (completed i s d).tree = d.state.tree := rfl
@[simp] theorem completed_canon (i : Instr) (s : State) (d : Done) :
    (completed i s d).canon = d.state.canon := rfl
@[simp] theorem completed_writer (i : Instr) (s : State) (d : Done) :
    (completed i s d).writer = d.state.writer := rfl
@[simp] theorem completed_reader (i : Instr) (s : State) (d : Done) :
    (completed i s d).reader = d.state.reader := rfl
@[simp] theorem completed_create (i : Instr) (s : State) (d : Done) :
    (completed i s d).create = d.state.create := rfl
@[simp] theorem completed_reading (i : Instr) (s : State) (d : Done) :
    (completed i s d).reading = d.state.reading := rfl
@[simp] theorem completed_mem (i : Instr) (s : State) (d : Done) :
    (completed i s d).mem = settledMem i s d := rfl
@[simp] theorem completed_params (i : Instr) (s : State) (d : Done) :
    (completed i s d).params = d.state.params := rfl
@[simp] theorem completed_resetHeld (i : Instr) (s : State) (d : Done) :
    (completed i s d).resetHeld = d.state.resetHeld := rfl
@[simp] theorem completed_inputs (i : Instr) (s : State) (d : Done) :
    (completed i s d).inputs = d.state.inputs := rfl
@[simp] theorem completed_responses (i : Instr) (s : State) (d : Done) :
    (completed i s d).responses = d.state.responses := rfl
@[simp] theorem completed_delay (i : Instr) (s : State) (d : Done) : (completed i s d).delay = 0 := rfl
@[simp] theorem completed_raced (i : Instr) (s : State) (d : Done) : (completed i s d).raced = [] := rfl
@[simp] theorem completed_draws (i : Instr) (s : State) (d : Done) :
    (completed i s d).draws = s.draws + 4 := rfl

/-! ### State.deliver -/

@[simp] theorem State.deliver_irqEn (s : State) (e : CmdError) : (s.deliver e).irqEn = s.irqEn := rfl
@[simp] theorem State.deliver_busy (s : State) (e : CmdError) : (s.deliver e).busy = false := rfl
@[simp] theorem State.deliver_done (s : State) (e : CmdError) : (s.deliver e).done = true := rfl
@[simp] theorem State.deliver_err (s : State) (e : CmdError) : (s.deliver e).err = true := rfl
@[simp] theorem State.deliver_overrun (s : State) (e : CmdError) :
    (s.deliver e).overrun = s.overrun := rfl
@[simp] theorem State.deliver_treeValid (s : State) (e : CmdError) :
    (s.deliver e).treeValid = s.treeValid := rfl
@[simp] theorem State.deliver_canonValid (s : State) (e : CmdError) :
    (s.deliver e).canonValid = s.canonValid := rfl
@[simp] theorem State.deliver_errcode (s : State) (e : CmdError) :
    (s.deliver e).errcode = e.code.byte := rfl
@[simp] theorem State.deliver_errinfo (s : State) (e : CmdError) :
    (s.deliver e).errinfo = infoWord s e.info := rfl
@[simp] theorem State.deliver_arg (s : State) (e : CmdError) : (s.deliver e).arg = s.arg := rfl
@[simp] theorem State.deliver_res (s : State) (e : CmdError) :
    (s.deliver e).res = results 0 0 0 0 := rfl
@[simp] theorem State.deliver_latch (s : State) (e : CmdError) : (s.deliver e).latch = s.latch := rfl
@[simp] theorem State.deliver_freq (s : State) (e : CmdError) : (s.deliver e).freq = s.freq := rfl
@[simp] theorem State.deliver_len (s : State) (e : CmdError) : (s.deliver e).len = s.len := rfl
@[simp] theorem State.deliver_tree (s : State) (e : CmdError) : (s.deliver e).tree = s.tree := rfl
@[simp] theorem State.deliver_canon (s : State) (e : CmdError) : (s.deliver e).canon = s.canon := rfl
@[simp] theorem State.deliver_writer (s : State) (e : CmdError) : (s.deliver e).writer = s.writer := rfl
@[simp] theorem State.deliver_reader (s : State) (e : CmdError) : (s.deliver e).reader = s.reader := rfl
@[simp] theorem State.deliver_create (s : State) (e : CmdError) : (s.deliver e).create = s.create := rfl
@[simp] theorem State.deliver_reading (s : State) (e : CmdError) :
    (s.deliver e).reading = s.reading := rfl
@[simp] theorem State.deliver_mem (s : State) (e : CmdError) : (s.deliver e).mem = s.mem := rfl
@[simp] theorem State.deliver_params (s : State) (e : CmdError) : (s.deliver e).params = s.params := rfl
@[simp] theorem State.deliver_resetHeld (s : State) (e : CmdError) :
    (s.deliver e).resetHeld = s.resetHeld := rfl
@[simp] theorem State.deliver_inputs (s : State) (e : CmdError) : (s.deliver e).inputs = s.inputs := rfl
@[simp] theorem State.deliver_responses (s : State) (e : CmdError) :
    (s.deliver e).responses = s.responses := rfl
@[simp] theorem State.deliver_delay (s : State) (e : CmdError) : (s.deliver e).delay = 0 := rfl
@[simp] theorem State.deliver_raced (s : State) (e : CmdError) : (s.deliver e).raced = [] := rfl
@[simp] theorem State.deliver_draws (s : State) (e : CmdError) :
    (s.deliver e).draws = s.draws + 4 := rfl

/-! ### State.clearErr -/

@[simp] theorem State.clearErr_irqEn (s : State) : s.clearErr.irqEn = s.irqEn := rfl
@[simp] theorem State.clearErr_busy (s : State) : s.clearErr.busy = s.busy := rfl
@[simp] theorem State.clearErr_done (s : State) : s.clearErr.done = s.done := rfl
@[simp] theorem State.clearErr_err (s : State) : s.clearErr.err = false := rfl
@[simp] theorem State.clearErr_overrun (s : State) : s.clearErr.overrun = s.overrun := rfl
@[simp] theorem State.clearErr_treeValid (s : State) : s.clearErr.treeValid = s.treeValid := rfl
@[simp] theorem State.clearErr_canonValid (s : State) : s.clearErr.canonValid = s.canonValid := rfl
@[simp] theorem State.clearErr_errcode (s : State) : s.clearErr.errcode = 0 := rfl
@[simp] theorem State.clearErr_errinfo (s : State) : s.clearErr.errinfo = 0 := rfl
@[simp] theorem State.clearErr_arg (s : State) : s.clearErr.arg = s.arg := rfl
@[simp] theorem State.clearErr_res (s : State) : s.clearErr.res = s.res := rfl
@[simp] theorem State.clearErr_latch (s : State) : s.clearErr.latch = s.latch := rfl
@[simp] theorem State.clearErr_freq (s : State) : s.clearErr.freq = s.freq := rfl
@[simp] theorem State.clearErr_len (s : State) : s.clearErr.len = s.len := rfl
@[simp] theorem State.clearErr_tree (s : State) : s.clearErr.tree = s.tree := rfl
@[simp] theorem State.clearErr_canon (s : State) : s.clearErr.canon = s.canon := rfl
@[simp] theorem State.clearErr_writer (s : State) : s.clearErr.writer = s.writer := rfl
@[simp] theorem State.clearErr_reader (s : State) : s.clearErr.reader = s.reader := rfl
@[simp] theorem State.clearErr_create (s : State) : s.clearErr.create = s.create := rfl
@[simp] theorem State.clearErr_reading (s : State) : s.clearErr.reading = s.reading := rfl
@[simp] theorem State.clearErr_mem (s : State) : s.clearErr.mem = s.mem := rfl
@[simp] theorem State.clearErr_params (s : State) : s.clearErr.params = s.params := rfl
@[simp] theorem State.clearErr_resetHeld (s : State) : s.clearErr.resetHeld = s.resetHeld := rfl
@[simp] theorem State.clearErr_inputs (s : State) : s.clearErr.inputs = s.inputs := rfl
@[simp] theorem State.clearErr_responses (s : State) : s.clearErr.responses = s.responses := rfl
@[simp] theorem State.clearErr_delay (s : State) : s.clearErr.delay = s.delay := rfl
@[simp] theorem State.clearErr_raced (s : State) : s.clearErr.raced = s.raced := rfl
@[simp] theorem State.clearErr_draws (s : State) : s.clearErr.draws = s.draws := rfl

/-! ### State.issue -/

@[simp] theorem State.issue_irqEn (s : State) (w : Word) : (s.issue w).irqEn = s.irqEn := rfl
@[simp] theorem State.issue_busy (s : State) (w : Word) : (s.issue w).busy = true := rfl
@[simp] theorem State.issue_done (s : State) (w : Word) : (s.issue w).done = false := rfl
@[simp] theorem State.issue_err (s : State) (w : Word) : (s.issue w).err = false := rfl
@[simp] theorem State.issue_overrun (s : State) (w : Word) : (s.issue w).overrun = s.overrun := rfl
@[simp] theorem State.issue_treeValid (s : State) (w : Word) :
    (s.issue w).treeValid = s.treeValid := rfl
@[simp] theorem State.issue_canonValid (s : State) (w : Word) :
    (s.issue w).canonValid = s.canonValid := rfl
@[simp] theorem State.issue_errcode (s : State) (w : Word) : (s.issue w).errcode = 0 := rfl
@[simp] theorem State.issue_errinfo (s : State) (w : Word) : (s.issue w).errinfo = 0 := rfl
@[simp] theorem State.issue_arg (s : State) (w : Word) : (s.issue w).arg = s.arg := rfl
@[simp] theorem State.issue_res (s : State) (w : Word) : (s.issue w).res = s.res := rfl
@[simp] theorem State.issue_latch (s : State) (w : Word) :
    (s.issue w).latch = { op := w, a := s.arg } := rfl
@[simp] theorem State.issue_freq (s : State) (w : Word) : (s.issue w).freq = s.freq := rfl
@[simp] theorem State.issue_len (s : State) (w : Word) : (s.issue w).len = s.len := rfl
@[simp] theorem State.issue_tree (s : State) (w : Word) : (s.issue w).tree = s.tree := rfl
@[simp] theorem State.issue_canon (s : State) (w : Word) : (s.issue w).canon = s.canon := rfl
@[simp] theorem State.issue_writer (s : State) (w : Word) : (s.issue w).writer = s.writer := rfl
@[simp] theorem State.issue_reader (s : State) (w : Word) : (s.issue w).reader = s.reader := rfl
@[simp] theorem State.issue_create (s : State) (w : Word) : (s.issue w).create = s.create := rfl
@[simp] theorem State.issue_reading (s : State) (w : Word) : (s.issue w).reading = s.reading := rfl
@[simp] theorem State.issue_mem (s : State) (w : Word) : (s.issue w).mem = s.mem := rfl
@[simp] theorem State.issue_params (s : State) (w : Word) : (s.issue w).params = s.params := rfl
@[simp] theorem State.issue_resetHeld (s : State) (w : Word) :
    (s.issue w).resetHeld = s.resetHeld := rfl
@[simp] theorem State.issue_inputs (s : State) (w : Word) : (s.issue w).inputs = s.inputs := rfl
@[simp] theorem State.issue_responses (s : State) (w : Word) :
    (s.issue w).responses = s.responses := rfl
@[simp] theorem State.issue_delay (s : State) (w : Word) :
    (s.issue w).delay = Config.freeDelay s.draws := rfl
@[simp] theorem State.issue_raced (s : State) (w : Word) : (s.issue w).raced = [] := rfl
@[simp] theorem State.issue_draws (s : State) (w : Word) : (s.issue w).draws = s.draws + 1 := rfl

/-! ### State.engineReset -/

@[simp] theorem State.engineReset_irqEn (s : State) : s.engineReset.irqEn = State.reset.irqEn := rfl
@[simp] theorem State.engineReset_busy (s : State) : s.engineReset.busy = State.reset.busy := rfl
@[simp] theorem State.engineReset_done (s : State) : s.engineReset.done = State.reset.done := rfl
@[simp] theorem State.engineReset_err (s : State) : s.engineReset.err = State.reset.err := rfl
@[simp] theorem State.engineReset_overrun (s : State) :
    s.engineReset.overrun = State.reset.overrun := rfl
@[simp] theorem State.engineReset_treeValid (s : State) :
    s.engineReset.treeValid = State.reset.treeValid := rfl
@[simp] theorem State.engineReset_canonValid (s : State) :
    s.engineReset.canonValid = State.reset.canonValid := rfl
@[simp] theorem State.engineReset_errcode (s : State) :
    s.engineReset.errcode = State.reset.errcode := rfl
@[simp] theorem State.engineReset_errinfo (s : State) :
    s.engineReset.errinfo = State.reset.errinfo := rfl
@[simp] theorem State.engineReset_arg (s : State) : s.engineReset.arg = State.reset.arg := rfl
@[simp] theorem State.engineReset_res (s : State) : s.engineReset.res = State.reset.res := rfl
@[simp] theorem State.engineReset_latch (s : State) : s.engineReset.latch = State.reset.latch := rfl
@[simp] theorem State.engineReset_freq (s : State) : s.engineReset.freq = State.reset.freq := rfl
@[simp] theorem State.engineReset_len (s : State) : s.engineReset.len = State.reset.len := rfl
@[simp] theorem State.engineReset_tree (s : State) : s.engineReset.tree = State.reset.tree := rfl
@[simp] theorem State.engineReset_canon (s : State) : s.engineReset.canon = State.reset.canon := rfl
@[simp] theorem State.engineReset_writer (s : State) : s.engineReset.writer = State.reset.writer := rfl
@[simp] theorem State.engineReset_reader (s : State) : s.engineReset.reader = State.reset.reader := rfl
@[simp] theorem State.engineReset_create (s : State) : s.engineReset.create = State.reset.create := rfl
@[simp] theorem State.engineReset_reading (s : State) :
    s.engineReset.reading = State.reset.reading := rfl
@[simp] theorem State.engineReset_mem (s : State) : s.engineReset.mem = abandonedMem s := rfl
@[simp] theorem State.engineReset_params (s : State) : s.engineReset.params = s.params := rfl
@[simp] theorem State.engineReset_resetHeld (s : State) : s.engineReset.resetHeld = s.resetHeld := rfl
@[simp] theorem State.engineReset_inputs (s : State) : s.engineReset.inputs = s.inputs := rfl
@[simp] theorem State.engineReset_responses (s : State) : s.engineReset.responses = s.responses := rfl
@[simp] theorem State.engineReset_delay (s : State) : s.engineReset.delay = State.reset.delay := rfl
@[simp] theorem State.engineReset_raced (s : State) : s.engineReset.raced = State.reset.raced := rfl
@[simp] theorem State.engineReset_draws (s : State) : s.engineReset.draws = s.draws + 1 := rfl

/-! ### State.hardReset -/

@[simp] theorem State.hardReset_irqEn (s : State) : s.hardReset.irqEn = State.reset.irqEn := rfl
@[simp] theorem State.hardReset_busy (s : State) : s.hardReset.busy = State.reset.busy := rfl
@[simp] theorem State.hardReset_done (s : State) : s.hardReset.done = State.reset.done := rfl
@[simp] theorem State.hardReset_err (s : State) : s.hardReset.err = State.reset.err := rfl
@[simp] theorem State.hardReset_overrun (s : State) : s.hardReset.overrun = State.reset.overrun := rfl
@[simp] theorem State.hardReset_treeValid (s : State) :
    s.hardReset.treeValid = State.reset.treeValid := rfl
@[simp] theorem State.hardReset_canonValid (s : State) :
    s.hardReset.canonValid = State.reset.canonValid := rfl
@[simp] theorem State.hardReset_errcode (s : State) : s.hardReset.errcode = State.reset.errcode := rfl
@[simp] theorem State.hardReset_errinfo (s : State) : s.hardReset.errinfo = State.reset.errinfo := rfl
@[simp] theorem State.hardReset_arg (s : State) : s.hardReset.arg = State.reset.arg := rfl
@[simp] theorem State.hardReset_res (s : State) : s.hardReset.res = State.reset.res := rfl
@[simp] theorem State.hardReset_latch (s : State) : s.hardReset.latch = State.reset.latch := rfl
@[simp] theorem State.hardReset_freq (s : State) : s.hardReset.freq = State.reset.freq := rfl
@[simp] theorem State.hardReset_len (s : State) : s.hardReset.len = State.reset.len := rfl
@[simp] theorem State.hardReset_tree (s : State) : s.hardReset.tree = State.reset.tree := rfl
@[simp] theorem State.hardReset_canon (s : State) : s.hardReset.canon = State.reset.canon := rfl
@[simp] theorem State.hardReset_writer (s : State) : s.hardReset.writer = State.reset.writer := rfl
@[simp] theorem State.hardReset_reader (s : State) : s.hardReset.reader = State.reset.reader := rfl
@[simp] theorem State.hardReset_create (s : State) : s.hardReset.create = State.reset.create := rfl
@[simp] theorem State.hardReset_reading (s : State) : s.hardReset.reading = State.reset.reading := rfl
@[simp] theorem State.hardReset_mem (s : State) : s.hardReset.mem = interruptedMem s := rfl
@[simp] theorem State.hardReset_params (s : State) : s.hardReset.params = s.params := rfl
@[simp] theorem State.hardReset_resetHeld (s : State) : s.hardReset.resetHeld = true := rfl
@[simp] theorem State.hardReset_inputs (s : State) : s.hardReset.inputs = s.inputs := rfl
@[simp] theorem State.hardReset_responses (s : State) : s.hardReset.responses = s.responses := rfl
@[simp] theorem State.hardReset_delay (s : State) : s.hardReset.delay = State.reset.delay := rfl
@[simp] theorem State.hardReset_raced (s : State) : s.hardReset.raced = State.reset.raced := rfl
@[simp] theorem State.hardReset_draws (s : State) : s.hardReset.draws = s.draws + 4 := rfl

/-! ### noteOverrun -/

@[simp] theorem noteOverrun_irqEn (s : State) : (noteOverrun s).irqEn = s.irqEn := rfl
@[simp] theorem noteOverrun_busy (s : State) : (noteOverrun s).busy = s.busy := rfl
@[simp] theorem noteOverrun_done (s : State) : (noteOverrun s).done = s.done := rfl
@[simp] theorem noteOverrun_err (s : State) : (noteOverrun s).err = s.err := rfl
@[simp] theorem noteOverrun_overrun (s : State) : (noteOverrun s).overrun = true := rfl
@[simp] theorem noteOverrun_treeValid (s : State) : (noteOverrun s).treeValid = s.treeValid := rfl
@[simp] theorem noteOverrun_canonValid (s : State) : (noteOverrun s).canonValid = s.canonValid := rfl
@[simp] theorem noteOverrun_errcode (s : State) : (noteOverrun s).errcode = s.errcode := rfl
@[simp] theorem noteOverrun_errinfo (s : State) : (noteOverrun s).errinfo = s.errinfo := rfl
@[simp] theorem noteOverrun_arg (s : State) : (noteOverrun s).arg = s.arg := rfl
@[simp] theorem noteOverrun_res (s : State) : (noteOverrun s).res = s.res := rfl
@[simp] theorem noteOverrun_latch (s : State) : (noteOverrun s).latch = s.latch := rfl
@[simp] theorem noteOverrun_freq (s : State) : (noteOverrun s).freq = s.freq := rfl
@[simp] theorem noteOverrun_len (s : State) : (noteOverrun s).len = s.len := rfl
@[simp] theorem noteOverrun_tree (s : State) : (noteOverrun s).tree = s.tree := rfl
@[simp] theorem noteOverrun_canon (s : State) : (noteOverrun s).canon = s.canon := rfl
@[simp] theorem noteOverrun_writer (s : State) : (noteOverrun s).writer = s.writer := rfl
@[simp] theorem noteOverrun_reader (s : State) : (noteOverrun s).reader = s.reader := rfl
@[simp] theorem noteOverrun_create (s : State) : (noteOverrun s).create = s.create := rfl
@[simp] theorem noteOverrun_reading (s : State) : (noteOverrun s).reading = s.reading := rfl
@[simp] theorem noteOverrun_mem (s : State) : (noteOverrun s).mem = s.mem := rfl
@[simp] theorem noteOverrun_params (s : State) : (noteOverrun s).params = s.params := rfl
@[simp] theorem noteOverrun_resetHeld (s : State) : (noteOverrun s).resetHeld = s.resetHeld := rfl
@[simp] theorem noteOverrun_inputs (s : State) : (noteOverrun s).inputs = s.inputs := rfl
@[simp] theorem noteOverrun_responses (s : State) : (noteOverrun s).responses = s.responses := rfl
@[simp] theorem noteOverrun_delay (s : State) : (noteOverrun s).delay = s.delay := rfl
@[simp] theorem noteOverrun_raced (s : State) : (noteOverrun s).raced = s.raced := rfl
@[simp] theorem noteOverrun_draws (s : State) : (noteOverrun s).draws = s.draws := rfl

/-! ### State.respond -/

@[simp] theorem State.respond_irqEn (s : State) (r : Response) : (s.respond r).irqEn = s.irqEn := rfl
@[simp] theorem State.respond_busy (s : State) (r : Response) : (s.respond r).busy = s.busy := rfl
@[simp] theorem State.respond_done (s : State) (r : Response) : (s.respond r).done = s.done := rfl
@[simp] theorem State.respond_err (s : State) (r : Response) : (s.respond r).err = s.err := rfl
@[simp] theorem State.respond_overrun (s : State) (r : Response) :
    (s.respond r).overrun = s.overrun := rfl
@[simp] theorem State.respond_treeValid (s : State) (r : Response) :
    (s.respond r).treeValid = s.treeValid := rfl
@[simp] theorem State.respond_canonValid (s : State) (r : Response) :
    (s.respond r).canonValid = s.canonValid := rfl
@[simp] theorem State.respond_errcode (s : State) (r : Response) :
    (s.respond r).errcode = s.errcode := rfl
@[simp] theorem State.respond_errinfo (s : State) (r : Response) :
    (s.respond r).errinfo = s.errinfo := rfl
@[simp] theorem State.respond_arg (s : State) (r : Response) : (s.respond r).arg = s.arg := rfl
@[simp] theorem State.respond_res (s : State) (r : Response) : (s.respond r).res = s.res := rfl
@[simp] theorem State.respond_latch (s : State) (r : Response) : (s.respond r).latch = s.latch := rfl
@[simp] theorem State.respond_freq (s : State) (r : Response) : (s.respond r).freq = s.freq := rfl
@[simp] theorem State.respond_len (s : State) (r : Response) : (s.respond r).len = s.len := rfl
@[simp] theorem State.respond_tree (s : State) (r : Response) : (s.respond r).tree = s.tree := rfl
@[simp] theorem State.respond_canon (s : State) (r : Response) : (s.respond r).canon = s.canon := rfl
@[simp] theorem State.respond_writer (s : State) (r : Response) : (s.respond r).writer = s.writer := rfl
@[simp] theorem State.respond_reader (s : State) (r : Response) : (s.respond r).reader = s.reader := rfl
@[simp] theorem State.respond_create (s : State) (r : Response) : (s.respond r).create = s.create := rfl
@[simp] theorem State.respond_reading (s : State) (r : Response) :
    (s.respond r).reading = s.reading := rfl
@[simp] theorem State.respond_mem (s : State) (r : Response) : (s.respond r).mem = s.mem := rfl
@[simp] theorem State.respond_params (s : State) (r : Response) : (s.respond r).params = s.params := rfl
@[simp] theorem State.respond_resetHeld (s : State) (r : Response) :
    (s.respond r).resetHeld = s.resetHeld := rfl
@[simp] theorem State.respond_inputs (s : State) (r : Response) : (s.respond r).inputs = s.inputs := rfl
@[simp] theorem State.respond_responses (s : State) (r : Response) :
    (s.respond r).responses = s.responses ++ [r] := rfl
@[simp] theorem State.respond_delay (s : State) (r : Response) : (s.respond r).delay = s.delay := rfl
@[simp] theorem State.respond_raced (s : State) (r : Response) : (s.respond r).raced = s.raced := rfl
@[simp] theorem State.respond_draws (s : State) (r : Response) : (s.respond r).draws = s.draws := rfl

/-! ### State.takeInput -/

@[simp] theorem State.takeInput_irqEn (s : State) (rest : List HostOp) :
    (s.takeInput rest).irqEn = s.irqEn := rfl
@[simp] theorem State.takeInput_busy (s : State) (rest : List HostOp) :
    (s.takeInput rest).busy = s.busy := rfl
@[simp] theorem State.takeInput_done (s : State) (rest : List HostOp) :
    (s.takeInput rest).done = s.done := rfl
@[simp] theorem State.takeInput_err (s : State) (rest : List HostOp) :
    (s.takeInput rest).err = s.err := rfl
@[simp] theorem State.takeInput_overrun (s : State) (rest : List HostOp) :
    (s.takeInput rest).overrun = s.overrun := rfl
@[simp] theorem State.takeInput_treeValid (s : State) (rest : List HostOp) :
    (s.takeInput rest).treeValid = s.treeValid := rfl
@[simp] theorem State.takeInput_canonValid (s : State) (rest : List HostOp) :
    (s.takeInput rest).canonValid = s.canonValid := rfl
@[simp] theorem State.takeInput_errcode (s : State) (rest : List HostOp) :
    (s.takeInput rest).errcode = s.errcode := rfl
@[simp] theorem State.takeInput_errinfo (s : State) (rest : List HostOp) :
    (s.takeInput rest).errinfo = s.errinfo := rfl
@[simp] theorem State.takeInput_arg (s : State) (rest : List HostOp) :
    (s.takeInput rest).arg = s.arg := rfl
@[simp] theorem State.takeInput_res (s : State) (rest : List HostOp) :
    (s.takeInput rest).res = s.res := rfl
@[simp] theorem State.takeInput_latch (s : State) (rest : List HostOp) :
    (s.takeInput rest).latch = s.latch := rfl
@[simp] theorem State.takeInput_freq (s : State) (rest : List HostOp) :
    (s.takeInput rest).freq = s.freq := rfl
@[simp] theorem State.takeInput_len (s : State) (rest : List HostOp) :
    (s.takeInput rest).len = s.len := rfl
@[simp] theorem State.takeInput_tree (s : State) (rest : List HostOp) :
    (s.takeInput rest).tree = s.tree := rfl
@[simp] theorem State.takeInput_canon (s : State) (rest : List HostOp) :
    (s.takeInput rest).canon = s.canon := rfl
@[simp] theorem State.takeInput_writer (s : State) (rest : List HostOp) :
    (s.takeInput rest).writer = s.writer := rfl
@[simp] theorem State.takeInput_reader (s : State) (rest : List HostOp) :
    (s.takeInput rest).reader = s.reader := rfl
@[simp] theorem State.takeInput_create (s : State) (rest : List HostOp) :
    (s.takeInput rest).create = s.create := rfl
@[simp] theorem State.takeInput_reading (s : State) (rest : List HostOp) :
    (s.takeInput rest).reading = s.reading := rfl
@[simp] theorem State.takeInput_mem (s : State) (rest : List HostOp) :
    (s.takeInput rest).mem = s.mem := rfl
@[simp] theorem State.takeInput_params (s : State) (rest : List HostOp) :
    (s.takeInput rest).params = s.params := rfl
@[simp] theorem State.takeInput_resetHeld (s : State) (rest : List HostOp) :
    (s.takeInput rest).resetHeld = s.resetHeld := rfl
@[simp] theorem State.takeInput_inputs (s : State) (rest : List HostOp) :
    (s.takeInput rest).inputs = rest := rfl
@[simp] theorem State.takeInput_responses (s : State) (rest : List HostOp) :
    (s.takeInput rest).responses = s.responses := rfl
@[simp] theorem State.takeInput_delay (s : State) (rest : List HostOp) :
    (s.takeInput rest).delay = s.delay - 1 := rfl
@[simp] theorem State.takeInput_raced (s : State) (rest : List HostOp) :
    (s.takeInput rest).raced = s.raced := rfl
@[simp] theorem State.takeInput_draws (s : State) (rest : List HostOp) :
    (s.takeInput rest).draws = s.draws := rfl

/-! ### State.placeCommand -/

@[simp] theorem State.placeCommand_irqEn (s : State) (w : Word) :
    (s.placeCommand w).irqEn = s.irqEn := rfl
@[simp] theorem State.placeCommand_busy (s : State) (w : Word) : (s.placeCommand w).busy = true := rfl
@[simp] theorem State.placeCommand_done (s : State) (w : Word) : (s.placeCommand w).done = false := rfl
@[simp] theorem State.placeCommand_err (s : State) (w : Word) : (s.placeCommand w).err = false := rfl
@[simp] theorem State.placeCommand_overrun (s : State) (w : Word) :
    (s.placeCommand w).overrun = s.overrun := rfl
@[simp] theorem State.placeCommand_treeValid (s : State) (w : Word) :
    (s.placeCommand w).treeValid = s.treeValid := rfl
@[simp] theorem State.placeCommand_canonValid (s : State) (w : Word) :
    (s.placeCommand w).canonValid = s.canonValid := rfl
@[simp] theorem State.placeCommand_errcode (s : State) (w : Word) :
    (s.placeCommand w).errcode = 0 := rfl
@[simp] theorem State.placeCommand_errinfo (s : State) (w : Word) :
    (s.placeCommand w).errinfo = 0 := rfl
@[simp] theorem State.placeCommand_arg (s : State) (w : Word) : (s.placeCommand w).arg = s.arg := rfl
@[simp] theorem State.placeCommand_res (s : State) (w : Word) : (s.placeCommand w).res = s.res := rfl
@[simp] theorem State.placeCommand_latch (s : State) (w : Word) :
    (s.placeCommand w).latch = { op := w, a := s.arg } := rfl
@[simp] theorem State.placeCommand_freq (s : State) (w : Word) : (s.placeCommand w).freq = s.freq := rfl
@[simp] theorem State.placeCommand_len (s : State) (w : Word) : (s.placeCommand w).len = s.len := rfl
@[simp] theorem State.placeCommand_tree (s : State) (w : Word) : (s.placeCommand w).tree = s.tree := rfl
@[simp] theorem State.placeCommand_canon (s : State) (w : Word) :
    (s.placeCommand w).canon = s.canon := rfl
@[simp] theorem State.placeCommand_writer (s : State) (w : Word) :
    (s.placeCommand w).writer = s.writer := rfl
@[simp] theorem State.placeCommand_reader (s : State) (w : Word) :
    (s.placeCommand w).reader = s.reader := rfl
@[simp] theorem State.placeCommand_create (s : State) (w : Word) :
    (s.placeCommand w).create = s.create := rfl
@[simp] theorem State.placeCommand_reading (s : State) (w : Word) :
    (s.placeCommand w).reading = s.reading := rfl
@[simp] theorem State.placeCommand_mem (s : State) (w : Word) : (s.placeCommand w).mem = s.mem := rfl
@[simp] theorem State.placeCommand_params (s : State) (w : Word) :
    (s.placeCommand w).params = s.params := rfl
@[simp] theorem State.placeCommand_resetHeld (s : State) (w : Word) :
    (s.placeCommand w).resetHeld = false := rfl
@[simp] theorem State.placeCommand_inputs (s : State) (w : Word) :
    (s.placeCommand w).inputs = s.inputs := rfl
@[simp] theorem State.placeCommand_responses (s : State) (w : Word) :
    (s.placeCommand w).responses = s.responses := rfl
@[simp] theorem State.placeCommand_delay (s : State) (w : Word) : (s.placeCommand w).delay = 0 := rfl
@[simp] theorem State.placeCommand_raced (s : State) (w : Word) : (s.placeCommand w).raced = [] := rfl
@[simp] theorem State.placeCommand_draws (s : State) (w : Word) :
    (s.placeCommand w).draws = s.draws + 1 := rfl

/-! ### State.drew: only `draws` can change -/

@[simp] theorem State.drew_irqEn (s : State) (b : Bool) : (s.drew b).irqEn = s.irqEn := by
  cases b <;> rfl
@[simp] theorem State.drew_busy (s : State) (b : Bool) : (s.drew b).busy = s.busy := by
  cases b <;> rfl
@[simp] theorem State.drew_done (s : State) (b : Bool) : (s.drew b).done = s.done := by
  cases b <;> rfl
@[simp] theorem State.drew_err (s : State) (b : Bool) : (s.drew b).err = s.err := by
  cases b <;> rfl
@[simp] theorem State.drew_overrun (s : State) (b : Bool) : (s.drew b).overrun = s.overrun := by
  cases b <;> rfl
@[simp] theorem State.drew_treeValid (s : State) (b : Bool) : (s.drew b).treeValid = s.treeValid := by
  cases b <;> rfl
@[simp] theorem State.drew_canonValid (s : State) (b : Bool) : (s.drew b).canonValid = s.canonValid := by
  cases b <;> rfl
@[simp] theorem State.drew_errcode (s : State) (b : Bool) : (s.drew b).errcode = s.errcode := by
  cases b <;> rfl
@[simp] theorem State.drew_errinfo (s : State) (b : Bool) : (s.drew b).errinfo = s.errinfo := by
  cases b <;> rfl
@[simp] theorem State.drew_arg (s : State) (b : Bool) : (s.drew b).arg = s.arg := by
  cases b <;> rfl
@[simp] theorem State.drew_res (s : State) (b : Bool) : (s.drew b).res = s.res := by
  cases b <;> rfl
@[simp] theorem State.drew_latch (s : State) (b : Bool) : (s.drew b).latch = s.latch := by
  cases b <;> rfl
@[simp] theorem State.drew_freq (s : State) (b : Bool) : (s.drew b).freq = s.freq := by
  cases b <;> rfl
@[simp] theorem State.drew_len (s : State) (b : Bool) : (s.drew b).len = s.len := by
  cases b <;> rfl
@[simp] theorem State.drew_tree (s : State) (b : Bool) : (s.drew b).tree = s.tree := by
  cases b <;> rfl
@[simp] theorem State.drew_canon (s : State) (b : Bool) : (s.drew b).canon = s.canon := by
  cases b <;> rfl
@[simp] theorem State.drew_writer (s : State) (b : Bool) : (s.drew b).writer = s.writer := by
  cases b <;> rfl
@[simp] theorem State.drew_reader (s : State) (b : Bool) : (s.drew b).reader = s.reader := by
  cases b <;> rfl
@[simp] theorem State.drew_create (s : State) (b : Bool) : (s.drew b).create = s.create := by
  cases b <;> rfl
@[simp] theorem State.drew_reading (s : State) (b : Bool) : (s.drew b).reading = s.reading := by
  cases b <;> rfl
@[simp] theorem State.drew_mem (s : State) (b : Bool) : (s.drew b).mem = s.mem := by
  cases b <;> rfl
@[simp] theorem State.drew_params (s : State) (b : Bool) : (s.drew b).params = s.params := by
  cases b <;> rfl
@[simp] theorem State.drew_resetHeld (s : State) (b : Bool) : (s.drew b).resetHeld = s.resetHeld := by
  cases b <;> rfl
@[simp] theorem State.drew_inputs (s : State) (b : Bool) : (s.drew b).inputs = s.inputs := by
  cases b <;> rfl
@[simp] theorem State.drew_responses (s : State) (b : Bool) : (s.drew b).responses = s.responses := by
  cases b <;> rfl
@[simp] theorem State.drew_delay (s : State) (b : Bool) : (s.drew b).delay = s.delay := by
  cases b <;> rfl
@[simp] theorem State.drew_raced (s : State) (b : Bool) : (s.drew b).raced = s.raced := by
  cases b <;> rfl
@[simp] theorem State.drew_draws (s : State) (b : Bool) :
    (s.drew b).draws = if b then s.draws + 1 else s.draws := by cases b <;> rfl

end Sys2Proof.Machine
end

