-- ==== Sys2Proof/Machine/Script.lean ====
section
/-! DEFINITION. The command-script notation and the host procedures, as inputs of the machine (spec/30_encoding.md R111-R113). -/

namespace Sys2Proof.Machine

/-- A statement of a script (30_encoding.md R111, R112). -/
inductive Stmt
  /-- `WR reg, value`, the register by its offset. -/
  | wr (off : Nat) (value : Word)
  /-- `RD reg`, the register by its offset. -/
  | rd (off : Nat)
  /-- `WAIT`. -/
  | wait
  /-- `MNEMONIC v0, ..., vj`. -/
  | command (i : Instr) (values : List Word)
  /-- `SETFREQ s, v`. -/
  | setFreq (k : Fin 256) (value : Word)
  /-- `SETLEN s, v`. -/
  | setLen (k : Fin 256) (value : Word)
  /-- `CHECK`. -/
  | check
  /-- `MEM addr, bytes`: start-state memory content. -/
  | mem (addr : Nat) (bytes : List Byte)
  deriving DecidableEq, Repr

/-- A 64-bit write at an offset of the register window (30_encoding.md R111). -/
def wrOp (p : Config.Params) (off : Nat) (v : Word) : HostOp := .mmioWrite 8 (p.mmioBase + off) v

/-- A 64-bit read at an offset of the register window (30_encoding.md R111). -/
def rdOp (p : Config.Params) (off : Nat) : HostOp := .mmioRead 8 (p.mmioBase + off)

/-- `WR ARG0, v0` and so on for the values a pseudo-instruction names (30_encoding.md R112). -/
def argOps (p : Config.Params) : Nat → List Word → List HostOp
  | _, [] => []
  | n, v :: vs => wrOp p (0x040 + 8 * n) v :: argOps p (n + 1) vs

/-- The host accesses of a statement (30_encoding.md R111, R112). MEM is not an access. -/
def stmtOps (p : Config.Params) : Stmt → List HostOp
  | .wr off v => [wrOp p off v]
  | .rd off => [rdOp p off]
  | .wait => [.wait]
  | .command i vs => argOps p 0 vs ++ [wrOp p (offsetOf .cmd) (encode i), .wait]
  | .setFreq k v => [wrOp p (offsetOf (.freq k)) v]
  | .setLen k v => [wrOp p (offsetOf (.len k)) v]
  | .check => [rdOp p (offsetOf .status)]
  | .mem _ _ => []

/-- Place bytes in system memory from an address up. -/
def placeBytes (m : Memory) (addr : Nat) : List Byte → Memory
  | [] => m
  | b :: bs => placeBytes (writeByte m addr b) (addr + 1) bs

/-- Load a script: its MEM lines into memory, its accesses behind the inputs (log 5). -/
def State.load (s : State) : List Stmt → State
  | [] => s
  | .mem addr bytes :: rest => State.load { s with mem := placeBytes s.mem addr bytes } rest
  | st :: rest => State.load { s with inputs := s.inputs ++ stmtOps s.params st } rest

/-- A member for the procedure `create`: its range, its path, and its histogram. -/
structure Member where
  src   : Word
  len   : Word
  path  : Word
  plen  : Word
  freqs : List (Fin 256 × Word)
  deriving DecidableEq, Repr

/-- Host procedure `create` (30_encoding.md R113). -/
def createProc (base cap slots : Word) (members : List Member) : List Stmt :=
  [.command .archBegin [base, cap, slots]] ++
  (members.flatMap fun x =>
    .command .freqClear [] :: (x.freqs.map fun f => Stmt.setFreq f.1 f.2) ++
      [.command .archAdd [x.src, x.len, x.path, x.plen]]) ++
  [.command .archEnd []]

/-- Host procedure `list` (30_encoding.md R113): the entries' metadata are the results read back. -/
def listProc (base len : Word) (n : Nat) : List Stmt :=
  .command .archOpen [base, len] ::
    (List.range n).flatMap fun i =>
      [.command .archEntry [BitVec.ofNat 64 i], .rd 0x060, .rd 0x068, .rd 0x070, .rd 0x078]

/-- Host procedure `extractAll` (30_encoding.md R113): one destination a member; a failed member does
not stop the next. -/
def extractAllProc (base len : Word) (dests : List (Word × Word)) : List Stmt :=
  .command .archOpen [base, len] ::
    dests.zipIdx.flatMap fun x =>
      [.command .archExtract [BitVec.ofNat 64 x.2, x.1.1, x.1.2], .check]

/-- Host procedure `extractOne`, up to the lookup (30_encoding.md R113). -/
def extractOneFind (base len path plen : Word) : List Stmt :=
  [.command .archOpen [base, len], .command .archFind [path, plen]]

/-- Host procedure `extractOne`, after the lookup: "on success ARCH_EXTRACT RES0" (30_encoding.md R113). -/
def extractOneTake (s : State) (dst cap : Word) : List Stmt :=
  if s.err then [] else [.command .archExtract [s.res[0], dst, cap]]

end Sys2Proof.Machine
end

