-- ==== Sys2Proof/Laws/Ops.lean ====
section
/-! SUPPORT. What the shared operations can do, each said once: the error steps, the data port, the bit writer's memory, a command's run, the engine's step. -/

namespace Sys2Proof.Machine

/-! ### Errors and ranges -/

theorem failIf_eq_ok {c : Bool} {k : ErrCode} {n : Nat} {u : Unit} :
    failIf c k n = .ok u ↔ c = false := by
  cases c <;> simp [failIf]

theorem failIf_eq_error {c : Bool} {k : ErrCode} {n : Nat} {e : CmdError} :
    failIf c k n = .error e ↔ c = true ∧ e = { code := k, info := n } := by
  cases c <;> simp [failIf, eq_comm]

theorem raisedIn_eq_ok {α : Type} {s : State} {x : Except CmdError α} {a : α} :
    raisedIn s x = .ok a ↔ x = .ok a := by
  cases x <;> simp [raisedIn]

theorem raisedIn_eq_error {α : Type} {s : State} {x : Except CmdError α} {r : Raised} :
    raisedIn s x = .error r ↔ ∃ e, x = .error e ∧ r = { error := e, state := s } := by
  cases x <;> simp [raisedIn, eq_comm]

theorem havingStored_eq_ok {α : Type} {a : Nat} {x : Except CmdError α} {b : α} :
    havingStored a x = .ok b ↔ x = .ok b := by
  cases x <;> simp [havingStored]

theorem havingStored_eq_error {α : Type} {a : Nat} {x : Except CmdError α} {e : CmdError} :
    havingStored a x = .error e ↔ ∃ e', x = .error e' ∧ e = { e' with reached := max a e'.reached } := by
  cases x <;> simp [havingStored, eq_comm]

/-- A sequence of two steps completes exactly when both do. -/
theorem except_bind_eq_ok {ε α β : Type} {x : Except ε α} {f : α → Except ε β} {b : β} :
    (x >>= f) = .ok b ↔ ∃ a, x = .ok a ∧ f a = .ok b := by
  cases x <;> simp [bind, Except.bind]

/-- A sequence of two steps fails when the first does, or the second after it. -/
theorem except_bind_eq_error {ε α β : Type} {x : Except ε α} {f : α → Except ε β} {e : ε} :
    (x >>= f) = .error e ↔ x = .error e ∨ ∃ a, x = .ok a ∧ f a = .error e := by
  cases x <;> simp [bind, Except.bind]

theorem checkRange_eq_ok {a n k : Nat} {u : Unit} :
    checkRange a n k = .ok u ↔ a + n ≤ addressLimit := by
  simp [checkRange, failIf_eq_ok]

@[simp] theorem inRange_eq_true {r : Range} {a : Nat} : inRange r a = true ↔ r.lo ≤ a ∧ a < r.hi := by
  simp [inRange]

theorem inRanges_eq_true {rs : List Range} {a : Nat} :
    inRanges rs a = true ↔ ∃ r ∈ rs, r.lo ≤ a ∧ a < r.hi := by
  simp [inRanges]

theorem inRange_rangeOf {a n x : Nat} :
    inRange (rangeOf a n) x = true ↔ a ≤ x ∧ x < a + n ∧ x < addressLimit := by
  simp only [inRange_eq_true, rangeOf]
  omega

theorem selfOverlap_eq_false {i : Instr} {s : State} (h : selfOverlap i s = false) {r q : Range}
    (hr : r ∈ readRanges i s) (hq : q ∈ writeRanges i s) {a : Nat} (ha : inRange r a = true) :
    inRange q a = false := by
  simp only [selfOverlap, List.any_eq_false] at h
  have h' : ¬rangesMeet r q = true := fun hm => h r hr (List.any_eq_true.2 ⟨q, hq, hm⟩)
  simp only [rangesMeet, decide_eq_true_eq] at h'
  rw [inRange_eq_true] at ha
  rw [← Bool.not_eq_true, inRange_eq_true]
  omega

theorem admits_eq_true {rs : List Range} {a : Nat} :
    admits rs a = true ↔ a < addressLimit ∧ inRanges rs a = true := by
  simp [admits]

@[simp] theorem getElem_tabulate {α : Type} {n : Nat} (f : Fin n → α) (k : Nat) (h : k < n) :
    (tabulate f)[k] = f ⟨k, h⟩ := by
  simp [tabulate]

@[simp] theorem toList_tabulate {α : Type} {n : Nat} (f : Fin n → α) :
    (tabulate f).toList = List.ofFn f := by
  simp [tabulate]

/-! ### The data port -/

@[simp] theorem length_memBytes (m : Memory) (a n : Nat) : (memBytes m a n).length = n := by
  simp [memBytes]

theorem getElem?_memBytes (m : Memory) (a n k : Nat) (h : k < n) :
    (memBytes m a n)[k]? = some (readByte m (a + k)) := by
  simp [memBytes, h]

theorem memBytes_succ (m : Memory) (a n : Nat) :
    memBytes m a (n + 1) = readByte m a :: memBytes m (a + 1) n := by
  simp only [memBytes, List.range_succ_eq_map, List.map_cons, List.map_map, Nat.add_zero]
  congr 1
  apply List.map_congr_left
  intro k _
  simp [Nat.add_assoc, Nat.add_comm 1 k]

theorem memBytes_add (m : Memory) (a n k : Nat) :
    memBytes m a (n + k) = memBytes m a n ++ memBytes m (a + n) k := by
  simp [memBytes, List.range_add, Nat.add_assoc]

theorem memBytes_congr {m m' : Memory} {a n : Nat}
    (h : ∀ k, k < n → readByte m (a + k) = readByte m' (a + k)) : memBytes m a n = memBytes m' a n := by
  simp only [memBytes]
  exact List.map_congr_left fun k hk => h k (List.mem_range.1 hk)

/-- A read of admitted bytes with no free byte among them gives what memory holds. -/
theorem memReadN_ok {v : View} {a n : Nat} (hr : Readable v.params a n)
    (hf : ∀ k, k < n → inRanges v.fuzz (a + k) = false) :
    memReadN v a n = .ok (memBytes v.mem a n) := by
  induction n generalizing a with
  | zero => rfl
  | succ n ih =>
    have h0 := hr 0 (by omega)
    have f0 := hf 0 (by omega)
    rw [Nat.add_zero] at h0 f0
    have hb : memRead v a = .ok (readByte v.mem a) := by simp [memRead, viewByte, h0, f0]
    have hrest : memReadN v (a + 1) n = .ok (memBytes v.mem (a + 1) n) := ih
      (fun k hk => by have := hr (k + 1) (by omega); rwa [show a + (k + 1) = a + 1 + k by omega] at this)
      (fun k hk => by have := hf (k + 1) (by omega); rwa [show a + (k + 1) = a + 1 + k by omega] at this)
    rw [memBytes_succ]
    simp only [memReadN]
    exact except_bind_eq_ok.2 ⟨_, hb, except_bind_eq_ok.2 ⟨_, hrest, rfl⟩⟩

/-- A read stops at the first byte that is not admitted. -/
theorem memReadN_ioRead {v : View} {a n k : Nat} (hk : k < n)
    (hok : ∀ j, j < k → admits v.params.admitR (a + j) = true)
    (hbad : admits v.params.admitR (a + k) = false) :
    memReadN v a n = .error { code := .ioRead, info := a + k } := by
  induction k generalizing a n with
  | zero =>
    obtain ⟨n, rfl⟩ : ∃ m, n = m + 1 := ⟨n - 1, by omega⟩
    rw [Nat.add_zero] at hbad
    refine except_bind_eq_error.2 (.inl ?_)
    simp [memRead, hbad]
  | succ k ih =>
    obtain ⟨n, rfl⟩ : ∃ m, n = m + 1 := ⟨n - 1, by omega⟩
    have h0 := hok 0 (by omega)
    rw [Nat.add_zero] at h0
    have hrest := ih (a := a + 1) (n := n) (by omega)
      (fun j hj => by have := hok (j + 1) (by omega); rwa [show a + (j + 1) = a + 1 + j by omega] at this)
      (by rwa [show a + (k + 1) = a + 1 + k by omega] at hbad)
    refine except_bind_eq_error.2 (.inr ⟨viewByte v a, by simp [memRead, h0], ?_⟩)
    rw [show a + (k + 1) = a + 1 + k by omega]
    exact except_bind_eq_error.2 (.inl hrest)

/-- A failed write is IO_WRITE at its first byte that is not admitted, and has stored those before it. -/
theorem memWriteN_error {p : Config.Params} {m : Memory} {a : Nat} {bs : List Byte} {e : CmdError}
    (h : memWriteN p m a bs = .error e) :
    ∃ k, k < bs.length ∧ e = { code := .ioWrite, info := a + k, reached := a + k } ∧
      admits p.admitW (a + k) = false ∧ ∀ j, j < k → admits p.admitW (a + j) = true := by
  induction bs generalizing m a with
  | nil => simp [memWriteN] at h
  | cons b bs ih =>
    rcases except_bind_eq_error.1 h with h | ⟨m', hm, h⟩
    · simp only [memWrite] at h
      split at h
      · simp at h
      · rename_i hn
        simp only [Except.error.injEq] at h
        exact ⟨0, by simp, h.symm, by simpa using hn, by simp⟩
    · obtain ⟨k, hk, he, hn, hj⟩ := ih h
      refine ⟨k + 1, by simpa using hk, by rw [he, Nat.add_right_comm, Nat.add_assoc], ?_, fun j hlt => ?_⟩
      · rwa [Nat.add_right_comm, Nat.add_assoc] at hn
      · cases j with
        | zero =>
          simp only [memWrite] at hm
          split at hm
          · assumption
          · simp at hm
        | succ j => simpa [Nat.add_right_comm, Nat.add_assoc] using hj j (by omega)

/-- A completed write stored exactly its bytes, and kept the canonical form. -/
theorem memWriteN_spec {p : Config.Params} {m m' : Memory} {a : Nat} {bs : List Byte}
    (h : memWriteN p m a bs = .ok m') :
    (∀ x, readByte m' x = if a ≤ x ∧ x < a + bs.length then bs.getD (x - a) 0 else readByte m x) ∧
    (m.wf → m'.wf) ∧ (∀ k, k < bs.length → admits p.admitW (a + k) = true) := by
  induction bs generalizing m a with
  | nil =>
    simp only [memWriteN, Except.ok.injEq] at h
    subst h
    refine ⟨fun x => ?_, id, by simp⟩
    rw [if_neg (by simp)]
  | cons b bs ih =>
    obtain ⟨m1, h1, h2⟩ := except_bind_eq_ok.1 h
    simp only [memWrite] at h1
    split at h1
    · rename_i had
      simp only [Except.ok.injEq] at h1
      subst h1
      obtain ⟨hr, hw, ha⟩ := ih h2
      refine ⟨fun x => ?_, fun hm => hw (writeByte_wf hm a b), fun k hk => ?_⟩
      · rw [hr x, readByte_writeByte]
        simp only [List.length_cons]
        by_cases hx : x = a
        · subst hx
          rw [if_neg (by omega), if_pos ⟨rfl, (admits_eq_true.1 had).1⟩, if_pos (by omega)]
          simp
        · by_cases hin : a + 1 ≤ x ∧ x < a + 1 + bs.length
          · rw [if_pos hin, if_pos (by omega)]
            obtain ⟨j, rfl⟩ : ∃ j, x = a + 1 + j := ⟨x - (a + 1), by omega⟩
            rw [show a + 1 + j - a = j + 1 by omega, show a + 1 + j - (a + 1) = j by omega]
            rfl
          · rw [if_neg hin, if_neg (by omega : ¬(a ≤ x ∧ x < a + (bs.length + 1)))]
            simp [hx]
      · cases k with
        | zero => simpa using had
        | succ k =>
          have := ha k (by simpa using hk)
          rwa [show a + (k + 1) = a + 1 + k by omega]
    · simp at h1

/-- A write of admitted bytes completes. -/
theorem memWriteN_ok {p : Config.Params} {m : Memory} {a : Nat} {bs : List Byte}
    (h : Writable p a bs.length) : ∃ m', memWriteN p m a bs = .ok m' := by
  induction bs generalizing m a with
  | nil => exact ⟨m, rfl⟩
  | cons b bs ih =>
    have h0 := h 0 (by simp)
    rw [Nat.add_zero] at h0
    obtain ⟨m', hm'⟩ := ih (m := writeByte m a b) (a := a + 1) (fun k hk => by
      have := h (k + 1) (by simpa using hk)
      rwa [show a + (k + 1) = a + 1 + k by omega] at this)
    exact ⟨m', except_bind_eq_ok.2 ⟨writeByte m a b, by simp [memWrite, h0], hm'⟩⟩

theorem placeBytes_wf {m : Memory} (hm : m.wf) (a : Nat) (bs : List Byte) :
    (placeBytes m a bs).wf := by
  induction bs generalizing m a with
  | nil => exact hm
  | cons b bs ih => exact ih (writeByte_wf hm a b) (a + 1)

/-! ### The bit writer keeps memory canonical -/

theorem chunkWrite_wf {p : Config.Params} {w w' : Writer} {m m' : Memory} (hm : m.wf)
    (h : chunkWrite p w m = .ok (w', m')) : m'.wf := by
  obtain ⟨m1, h1, h2⟩ := except_bind_eq_ok.1 h
  simp only [Except.ok.injEq, Prod.mk.injEq] at h2
  exact h2.2 ▸ (memWriteN_spec h1).2.1 hm

theorem putByte_wf {p : Config.Params} {w w' : Writer} {m m' : Memory} {v : Byte} (hm : m.wf)
    (h : putByte p w m v = .ok (w', m')) : m'.wf := by
  simp only [putByte] at h
  split at h
  · simp at h
  · split at h
    · exact chunkWrite_wf hm h
    · simp only [Except.ok.injEq, Prod.mk.injEq] at h
      exact h.2 ▸ hm

theorem putBit_wf {p : Config.Params} {w w' : Writer} {m m' : Memory} {b : Bool} (hm : m.wf)
    (h : putBit p w m b = .ok (w', m')) : m'.wf := by
  simp only [putBit] at h
  split at h
  · obtain ⟨⟨w1, m1⟩, h1, h2⟩ := except_bind_eq_ok.1 h
    simp only [Except.ok.injEq, Prod.mk.injEq] at h2
    exact h2.2 ▸ putByte_wf hm h1
  · simp only [Except.ok.injEq, Prod.mk.injEq] at h
    exact h.2 ▸ hm

theorem writeBits_wf {p : Config.Params} {bits : Word} {n : Nat} {w w' : Writer} {m m' : Memory}
    (hm : m.wf) (h : writeBits p bits n w m = .ok (w', m')) : m'.wf := by
  induction n generalizing w m with
  | zero =>
    simp only [writeBits, Except.ok.injEq, Prod.mk.injEq] at h
    exact h.2 ▸ hm
  | succ n ih =>
    obtain ⟨⟨w1, m1⟩, h1, h2⟩ := except_bind_eq_ok.1 h
    exact ih (putBit_wf hm h1) h2

/-! ### A command's run -/

theorem exec_eq_runCommand (i : Instr) (s : State) : exec i s = runCommand i s (bodyOf i) := by
  cases i <;> rfl

/-- The three ways a command ends. -/
theorem runCommand_cases {i : Instr} {s t : State} {body : State → Except Raised Done}
    (h : runCommand i s body = .next t) :
    (contextPresent i s = false ∧ t = s.deliver { code := .noState, info := (opcodeOf i).toNat }) ∨
    (contextPresent i s = true ∧ ∃ d, body s = .ok d ∧ t = completed i s d) ∨
    (contextPresent i s = true ∧ ∃ r, body s = .error r ∧ t = s.raise i r) := by
  unfold runCommand at h
  cases hc : contextPresent i s
  · rw [hc, if_neg (by simp)] at h
    exact .inl ⟨rfl, (Host.Outcome.next.inj h).symm⟩
  · rw [hc, if_pos rfl] at h
    cases hb : body s with
    | ok d =>
      rw [hb] at h
      exact .inr (.inl ⟨rfl, d, rfl, (Host.Outcome.next.inj h).symm⟩)
    | error r =>
      rw [hb] at h
      exact .inr (.inr ⟨rfl, r, rfl, (Host.Outcome.next.inj h).symm⟩)

theorem runCommand_ok {i : Instr} {s : State} {body : State → Except Raised Done} {d : Done}
    (hc : contextPresent i s = true) (h : body s = .ok d) :
    runCommand i s body = .next (completed i s d) := by
  simp [runCommand, hc, h]

theorem runCommand_error {i : Instr} {s : State} {body : State → Except Raised Done} {r : Raised}
    (hc : contextPresent i s = true) (h : body s = .error r) :
    runCommand i s body = .next (s.raise i r) := by
  simp [runCommand, hc, h]

theorem runCommand_noState {i : Instr} {s : State} {body : State → Except Raised Done}
    (hc : contextPresent i s = false) :
    runCommand i s body = .next (s.deliver { code := .noState, info := (opcodeOf i).toNat }) := by
  simp [runCommand, hc]

/-- Without a race, the bytes free for a command's reads are those of its own write range. -/
theorem viewOf_raceFree {i : Instr} {s : State} (hr : RaceFree s) (k : Nat) :
    viewOf i s k =
      { mem := s.mem, params := s.params, fuzz := writeRanges i s, draw := s.draws + k } := by
  have hr' : s.raced = [] := hr
  simp [viewOf, byteRanges, hr']

/-- The engine reads a byte the host wrote during the command as a byte of the command's own draw. -/
theorem viewByte_raced {i : Instr} {s : State} {a : Nat} (ha : a ∈ s.raced) (k : Nat) :
    viewByte (viewOf i s k) a = Config.freeByte (s.draws + k) a := by
  have hf : inRanges (viewOf i s k).fuzz a = true := inRanges_eq_true.2
    ⟨⟨a, a + 1⟩, List.mem_append.2 (.inr (List.mem_map.2 ⟨a, ha, rfl⟩)), Nat.le_refl a, Nat.lt_succ_self a⟩
  simp only [viewByte, hf, Bool.true_or, if_true]
  rfl

/-- Without overlap and race, memory after a command is what the command left. -/
theorem settledMem_eq {i : Instr} {s : State} {d : Done} (ho : OverlapFree i s) (hr : RaceFree s) :
    settledMem i s d = d.state.mem := by
  have ho' : selfOverlap i s = false := ho
  have hr' : s.raced = [] := hr
  simp [settledMem, ho', hr', byteRanges, havocAll]

/-- The command that leaves `t` completes as `finished t` says, if it ran without overlap and race. -/
theorem completed_eq_finished {i : Instr} {s t : State} {d : Done} (ho : OverlapFree i s)
    (hr : RaceFree s) (hd : d.state = t) (hdraws : t.draws = s.draws) :
    completed i s d = finished t d.r0 d.r1 d.r2 d.r3 := by
  subst hd
  simp [completed, finished, results, settledMem_eq ho hr, hdraws]

theorem settledMem_wf {i : Instr} {s : State} {d : Done} (h : d.state.mem.wf) :
    (settledMem i s d).wf := by
  simp only [settledMem]
  split
  · exact havocAll_wf (havoc_wf h _ _) _ _
  · exact havocAll_wf h _ _

theorem abandonedMem_wf {s : State} (h : s.mem.wf) : (abandonedMem s).wf := by
  simp only [abandonedMem]
  split
  · split
    · exact havocAll_wf h _ _
    · exact h
  · exact h

theorem interruptedMem_wf {s : State} (h : s.mem.wf) : (interruptedMem s).wf := by
  simp only [interruptedMem]
  split
  · split
    · exact havoc_wf h _ _
    · exact h
  · exact h

/-- The reset input leaves every byte the interrupted command does not store as it was. -/
theorem readByte_interruptedMem {s : State} (h : s.mem.wf) {a : Nat}
    (ha : ∀ i, decode s.latch.op = .ok i → inRange (storedBy i s) a = false) :
    readByte (interruptedMem s) a = readByte s.mem a := by
  simp only [interruptedMem]
  split
  · split
    · rename_i i hi
      have hi' : decode s.latch.op = .ok i := by
        simp only [runningCommand] at hi
        split at hi <;> simp_all
      have hr := ha i hi'
      rw [readByte_havoc h, if_neg]
      intro hx
      rw [inRange_eq_true.2 ⟨hx.1, by omega⟩] at hr
      simp at hr
    · rfl
  · rfl

theorem raise_mem_wf {i : Instr} {s : State} {r : Raised} (h : s.mem.wf) : (s.raise i r).mem.wf := by
  simp only [State.raise, State.deliver_mem]
  split
  · exact h
  · exact havocAll_wf h _ _

/-! ### The step -/

/-- Everything one step can be: the engine runs a command, reports an illegal word, idles, or serves an
input. -/
theorem step_cases (s : State) :
    (engineTurn s = true ∧ ∃ i, decode s.latch.op = .ok i ∧ step s = exec i s) ∨
    (engineTurn s = true ∧ (∃ r, decode s.latch.op = .error r) ∧ step s = .next s.badOpcode) ∨
    (engineTurn s = false ∧ s.inputs = [] ∧ step s = .next s) ∨
    (engineTurn s = false ∧ ∃ op rest, s.inputs = op :: rest ∧ step s = hostAct (s.takeInput rest) op) := by
  cases ht : engineTurn s
  · right; right
    cases hi : s.inputs with
    | nil => exact .inl ⟨rfl, rfl, by simp [step, ht, hi]⟩
    | cons op rest => exact .inr ⟨rfl, op, rest, rfl, by simp [step, ht, hi]⟩
  · cases hd : decode s.latch.op with
    | ok i => exact .inl ⟨rfl, i, rfl, by simp [step, ht, engineStep, hd]⟩
    | error r => exact .inr (.inl ⟨rfl, ⟨r, rfl⟩, by simp [step, ht, engineStep, hd]⟩)

end Sys2Proof.Machine
end

