-- ==== Sys2Proof/Laws/PerInstr.lean ====
section
/-! SUPPORT. Facts made per command: the encoding of each is a legal word of its opcode row. -/

namespace Sys2Proof.Laws.Encoding

/-- The word of a command is a legal command word (30_encoding.md R100), and its opcode alone, as the
opcode table writes it, is read as the command (R103). -/
def Statement (i : Instr) : Prop :=
  (CmdWord.ofWord (encode i)).wf = true ∧ decodeTableWord 8 (opcodeOf i).toNat = some i

theorem nop : Statement .nop := by unfold Statement; decide
theorem freqClear : Statement .freqClear := by unfold Statement; decide
theorem freqLoad : Statement .freqLoad := by unfold Statement; decide
theorem treeBuild : Statement .treeBuild := by unfold Statement; decide
theorem treeLengths : Statement .treeLengths := by unfold Statement; decide
theorem canonAssign : Statement .canonAssign := by unfold Statement; decide
theorem bwOpen : Statement .bwOpen := by unfold Statement; decide
theorem bwWrite : Statement .bwWrite := by unfold Statement; decide
theorem bwSym : Statement .bwSym := by unfold Statement; decide
theorem bwFlush : Statement .bwFlush := by unfold Statement; decide
theorem brOpen : Statement .brOpen := by unfold Statement; decide
theorem brReadbit : Statement .brReadbit := by unfold Statement; decide
theorem brSym : Statement .brSym := by unfold Statement; decide
theorem brClose : Statement .brClose := by unfold Statement; decide
theorem frameEncode : Statement .frameEncode := by unfold Statement; decide
theorem frameDecode : Statement .frameDecode := by unfold Statement; decide
theorem archBegin : Statement .archBegin := by unfold Statement; decide
theorem archAdd : Statement .archAdd := by unfold Statement; decide
theorem archEnd : Statement .archEnd := by unfold Statement; decide
theorem archOpen : Statement .archOpen := by unfold Statement; decide
theorem archEntry : Statement .archEntry := by unfold Statement; decide
theorem archFind : Statement .archFind := by unfold Statement; decide
theorem archExtract : Statement .archExtract := by unfold Statement; decide

end Sys2Proof.Laws.Encoding
end

