-- ==== Sys2Proof/Tests/Slice0.lean ====
section
/-! SUPPORT. The model's own tests: the well-formedness smoke, command words written out from the opcode map, one-step tests from spec/95_test_vectors.md, and a witness for the hypotheses of each statement. -/

open Sys2Proof Sys2Proof.Machine

namespace Sys2Proof.Tests

set_option maxRecDepth 100000
set_option Elab.async false

/-! ### Well-formedness: each check refuses an ill-formed word (30_encoding.md R100) -/

theorem test_reserved_bit_is_refused :
    (CmdWord.mk 0x10 1).reservedClear = false ∧ (CmdWord.mk 0x10 1).wf = false := by decide

theorem test_unassigned_opcode_is_refused :
    (CmdWord.mk 0x14 0).opcodeAssigned = false ∧ (CmdWord.mk 0x14 0).wf = false := by decide

theorem test_legal_word_is_accepted : (CmdWord.mk 0x56 0).wf = true := by decide

/-! ### Decoding: the 64 bits of R100, the opcode in bits [7:0] (R103) -/

theorem test_words_control_tree :
    decode 0b0000000000000000000000000000000000000000000000000000000000000000#64 = .ok .nop ∧
    decode 0b0000000000000000000000000000000000000000000000000000000000010000#64 = .ok .freqClear ∧
    decode 0b0000000000000000000000000000000000000000000000000000000000010001#64 = .ok .freqLoad ∧
    decode 0b0000000000000000000000000000000000000000000000000000000000010010#64 = .ok .treeBuild ∧
    decode 0b0000000000000000000000000000000000000000000000000000000000010011#64 = .ok .treeLengths ∧
    decode 0b0000000000000000000000000000000000000000000000000000000000100000#64 = .ok .canonAssign := by
  decide

theorem test_words_bitstream :
    decode 0b00110000#64 = .ok .bwOpen ∧ decode 0b00110001#64 = .ok .bwWrite ∧
    decode 0b00110010#64 = .ok .bwSym ∧ decode 0b00110011#64 = .ok .bwFlush ∧
    decode 0b00110100#64 = .ok .brOpen ∧ decode 0b00110101#64 = .ok .brReadbit ∧
    decode 0b00110110#64 = .ok .brSym ∧ decode 0b00110111#64 = .ok .brClose := by decide

theorem test_words_frame_archive :
    decode 0b01000000#64 = .ok .frameEncode ∧ decode 0b01000001#64 = .ok .frameDecode ∧
    decode 0b01010000#64 = .ok .archBegin ∧ decode 0b01010001#64 = .ok .archAdd ∧
    decode 0b01010010#64 = .ok .archEnd ∧ decode 0b01010011#64 = .ok .archOpen ∧
    decode 0b01010100#64 = .ok .archEntry ∧ decode 0b01010101#64 = .ok .archFind ∧
    decode 0b01010110#64 = .ok .archExtract := by decide

theorem test_words_refused_by_name :
    decode 0x100 = .error (.reservedBits 0x100) ∧
    decode 0x8000000000000010 = .error (.reservedBits 0x8000000000000010) ∧
    decode 0x14 = .error (.unassignedOpcode 0x14) ∧ decode 0xFF = .error (.unassignedOpcode 0xFF) := by
  decide

/-! ### Small states -/

/-- A small instance: PATH_LEN 4, MAX_MEMBERS 3, CHUNK_BYTES 2, all engine state at reset. -/
def small : State :=
  { State.reset with
    params := { Config.Params.default with pathLen := 4, maxMembers := 3, chunkBytes := 2 } }

/-- The state with bytes placed in memory. -/
def holding (addr : Nat) (bs : List Byte) (s : State) : State :=
  { s with mem := placeBytes s.mem addr bs }

/-- The state with a command issued and its delay over. -/
def latched (i : Instr) (x0 x1 x2 x3 : Word) (s : State) : State :=
  { s with busy := true, latch := { op := encode i, a := #v[x0, x1, x2, x3] } }

/-- The next state of an outcome. -/
def after : Host.Outcome State Fault Refusal → State
  | .next t => t
  | _ => State.reset

/-- The state after one step that performs the command. -/
def ran (i : Instr) (x0 x1 x2 x3 : Word) (s : State) : State := after (step (latched i x0 x1 x2 x3 s))

/-- FREQ of 95_test_vectors.md W1: A 8, B 4, C 2, D 1. -/
def freqW1 : Vector Word 256 := tabulate fun k : Fin 256 =>
  if k.val = 0x41 then 8 else if k.val = 0x42 then 4 else if k.val = 0x43 then 2
  else if k.val = 0x44 then 1 else 0

/-- LEN of 95_test_vectors.md TV-C1: A 1, B 2, C 3, D 3. -/
def lenC1 : Vector Byte 256 := tabulate fun k : Fin 256 =>
  if k.val = 0x41 then 1 else if k.val = 0x42 then 2 else if k.val = 0x43 then 3
  else if k.val = 0x44 then 3 else 0

/-- FREQ Z 3 (95_test_vectors.md W2). -/
def freqZ : Vector Word 256 := tabulate fun k : Fin 256 => if k.val = 0x5A then 3 else 0

/-- LEN Z 1 (95_test_vectors.md W2). -/
def lenZ : Vector Byte 256 := tabulate fun k : Fin 256 => if k.val = 0x5A then 1 else 0

/-- The tree of an outcome of TREE_BUILD's body. -/
def treeOf : Except CmdError Tree → Tree
  | .ok t => t
  | .error _ => Tree.zero

/-- The state with the tables of TV-C1. -/
def withC1 (s : State) : State := { s with len := lenC1, canon := canonTables lenC1, canonValid := true }

/-- A writer at 0x2000 for 16 bytes, with one byte in memory, one in the chunk, and three bits 101. -/
def writing : State :=
  { holding 0x2000 [0x80] small with
    writer := { wopen := true, wdst := 0x2000, wcap := 16, wpos := 2, wcfl := 1, wacc := 5, wnacc := 3
                chunk := [0xC1] } }

/-- A reader at 0x3000 on the two bytes DB 80 (TV-R4). -/
def reading : State :=
  { holding 0x3000 [0xDB, 0x80] small with
    reader := { ropen := true, rsrc := 0x3000, rlen := 2, rpos := 0, rbyte := 0, rnb := 0 } }

/-- The frame of "ZZZ" (95_test_vectors.md FV3). -/
def frameZZZ : List Byte :=
  [0x48, 0x55, 0x46, 0x31, 3, 0, 0, 0, 0, 0, 0, 0] ++ lenZ.toList ++ [5, 0]

/-- "ZZZ" at 0x1000 with its histogram. -/
def sourceZZZ : State := { holding 0x1000 [0x5A, 0x5A, 0x5A] small with freq := freqZ }

/-- The encoder's state: the frame fits exactly. -/
def encoding : State := latched .frameEncode 0x1000 3 0x2000 270 sourceZZZ

/-- A creation at 0x4000 with two slots and no member; E = 28, so A_END = 9 + 56. -/
def creating : State :=
  { holding 0x1100 [0x7A, 0x2E] sourceZZZ with
    create := { archW := true, abase := 0x4000, acap := 0x1000, aslots := 2, an := 0, aend := 65
                afail := 0, partialAdd := false, ram := [] } }

/-- The same with one member recorded. -/
def createdOne : State :=
  { creating with
    create := { creating.create with
      an := 1, aend := 335, ram := [{ path := [0x7A, 0x2E, 0, 0], orig := 3, comp := 270, off := 65 }] } }

/-- An archive of one member "z." (its frame is FV3) at 0x4000 (30_encoding.md R107, R108). -/
def archiveZ : List Byte :=
  [0x48, 0x55, 0x46, 0x46, 1, 1, 0, 0, 0] ++
  [0x7A, 0x2E, 0, 0] ++ [3, 0, 0, 0, 0, 0, 0, 0] ++ [14, 1, 0, 0, 0, 0, 0, 0] ++ [37, 0, 0, 0, 0, 0, 0, 0] ++
  frameZZZ

/-- The archive open for reading, and the query "z." at 0x1100. -/
def archived : State :=
  { holding 0x1100 [0x7A, 0x2E] (holding 0x4000 archiveZ small) with
    reading := { archR := true, xbase := 0x4000, xlen := 307, xn := 1 } }

/-! ### One step per command, from 95_test_vectors.md -/

/-- TV-P2. -/
theorem test_nop : (let t := ran .nop 0 0 0 0 small; statusWord t = 2 ∧ t.res = #v[0, 0, 0, 0]) := by
  decide +kernel

/-- TV-P3: the word 0x100, from the host interface's own placing of it. -/
theorem test_bad_opcode :
    (let t := after (step (State.reset.withFetchWord 16 0x100))
     statusWord t = 0x05510006 ∧ t.errinfo = 0x100) := by
  decide +kernel

/-- R170's example. -/
theorem test_freq_clear :
    (let t := ran .freqClear 0 0 0 0 { small with freq := freqW1, treeValid := true }
     t.freq[0x41] = 0 ∧ t.treeValid = false) := by
  decide +kernel

/-- TV-T12. -/
theorem test_freq_load_range :
    (let t := ran .freqLoad 0xFFFFFFFFFFFFFC00 0 0 0 small
     t.err = true ∧ t.errcode = 0x58 ∧ t.errinfo = 0) := by
  decide +kernel

/-- TV-T13. -/
theorem test_freq_load_unadmitted :
    (let t := ran .freqLoad 0x1000 0 0 0 { small with params := { small.params with admitR := [⟨0, 0x1005⟩] } }
     t.err = true ∧ t.errcode = 0x11 ∧ t.errinfo = 0x1005) := by
  decide +kernel

/-- TV-T1. -/
theorem test_tree_build :
    (let t := ran .treeBuild 0 0 0 0 { small with freq := freqW1 }
     t.res = #v[4, 6, 15, 7] ∧ regValue t (.nodeLink 4) = 0x20003 ∧ regValue t (.nodeLink 5) = 0x10004 ∧
       regValue t (.nodeLink 6) = 5 ∧ regValue t (.nodeLink 0) = 0x141FFFFFFFF ∧
       regValue t .treeInfo = 0x400060007) := by
  decide +kernel

/-- TV-T6. -/
theorem test_tree_build_overflow :
    (let t := ran .treeBuild 0 0 0 0
        { small with freq := (small.freq.set 0 0x8000000000000000).set 1 0x8000000000000000 }
     t.errcode = 0x54 ∧ t.treeValid = false) := by
  decide +kernel

/-- TV-T1, second command. -/
theorem test_tree_lengths :
    (let t := ran .treeLengths 0 0 0 0
        { small with freq := freqW1, tree := treeOf (buildTree freqW1), treeValid := true }
     t.len.toList = lenC1.toList ∧ t.res = #v[3, 4, 0, 0] ∧ t.canonValid = false) := by
  decide +kernel

/-- TV-P13. -/
theorem test_tree_lengths_no_state :
    (let t := ran .treeLengths 0 0 0 0 small; t.errcode = 0x57 ∧ t.errinfo = 0x13) := by
  decide +kernel

/-- TV-C1. -/
theorem test_canon_assign :
    (let t := ran .canonAssign 0 0 0 0 { small with len := lenC1 }
     t.res = #v[4, 3, 0, 0] ∧ t.canon.code[0x42] = 2 ∧ t.canon.code[0x44] = 7 ∧
       regValue t (.sorted 3) = 0x344 ∧ regValue t (.rowBase 3) = 6 ∧ regValue t (.rowInfo 3) = 0x20002 ∧
       regValue t (.rowInfo 4) = 4 ∧ regValue t .canonInfo = 0x40003) := by
  decide +kernel

/-- TV-C8. -/
theorem test_canon_assign_kraft :
    (let t := ran .canonAssign 0 0 0 0 { small with len := ((small.len.set 0 1).set 1 1).set 2 2 }
     t.errcode = 0x27 ∧ t.errinfo = 2) := by
  decide +kernel

/-- TV-W11. -/
theorem test_bw_open_range :
    (let t := ran .bwOpen 0xFFFFFFFFFFFFFFF0 0x20 0 0 small; t.errcode = 0x58 ∧ t.errinfo = 0) := by
  decide +kernel

/-- TV-W10: with CHUNK_BYTES 2 the first two bytes are in memory, the third in the chunk. -/
theorem test_bw_write_chunks :
    (let t := ran .bwWrite 0xAABBCC 24 0 0 (ran .bwOpen 0x2000 16 0 0 small)
     memBytes t.mem 0x2000 2 = [0xAA, 0xBB] ∧ t.writer.chunk = [0xCC] ∧ regValue t .wPos = 3) := by
  decide +kernel

/-- TV-W7. -/
theorem test_bw_write_full :
    (let t := ran .bwWrite 0xFFFF 16 0 0 (ran .bwOpen 0x2000 1 0 0 small)
     t.errcode = 0x41 ∧ t.errinfo = 2 ∧ t.writer.wopen = false) := by
  decide +kernel

/-- TV-W12. -/
theorem test_bw_sym :
    (let t := ran .bwSym 0x43 0 0 0 (withC1 (ran .bwOpen 0x2000 16 0 0 small))
     t.res = #v[0, 3, 0, 0] ∧ regValue t .wAcc = 0x306) := by
  decide +kernel

/-- TV-W13. -/
theorem test_bw_sym_absent :
    (let t := ran .bwSym 0x45 0 0 0 (withC1 (ran .bwOpen 0x2000 16 0 0 small))
     t.errcode = 0x56 ∧ t.errinfo = 0x45 ∧ t.writer.wopen = false) := by
  decide +kernel

/-- TV-W2's flush: the byte BF and the bit 1. -/
theorem test_bw_flush :
    (let t := ran .bwFlush 0 0 0 0
        { small with writer := { wopen := true, wdst := 0x2000, wcap := 16, wpos := 1, wcfl := 0
                                 wacc := 1, wnacc := 1, chunk := [0xBF] } }
     memBytes t.mem 0x2000 2 = [0xBF, 0x80] ∧ t.res = #v[7, 2, 0, 0] ∧ t.writer.wopen = false) := by
  decide +kernel

/-- TV-R11: BR_OPEN does not access its range. -/
theorem test_br_open :
    (let t := ran .brOpen 0x3000 2 0 0 { small with params := { small.params with admitR := [] } }
     t.err = false ∧ t.reader.ropen = true ∧ t.reader.rlen = 2) := by
  decide +kernel

/-- TV-R1, TV-R2. -/
theorem test_br_readbit :
    (let t := ran .brReadbit 0 0 0 0 (ran .brOpen 0x3000 1 0 0 (holding 0x3000 [0xB4] small))
     t.res = #v[1, 0, 0, 0] ∧ regValue t .rBuf = 0x7B4) := by
  decide +kernel

/-- TV-R3. -/
theorem test_br_readbit_end :
    (ran .brReadbit 0 0 0 0 (ran .brOpen 0x3000 0 0 0 small)).res = #v[0, 1, 0, 0] := by
  decide +kernel

/-- TV-R4. -/
theorem test_br_sym : (ran .brSym 0 0 0 0 (withC1 reading)).res = #v[0x43, 3, 0, 0] := by decide +kernel

/-- TV-R6. -/
theorem test_br_sym_bad_code :
    (let t := ran .brSym 0 0 0 0
        { holding 0x3000 [0x80] reading with len := lenZ, canon := canonTables lenZ, canonValid := true }
     t.errcode = 0x26 ∧ t.errinfo = 0 ∧ t.reader.ropen = false) := by
  decide +kernel

/-- TV-R10. -/
theorem test_br_close : (ran .brClose 0 0 0 0 reading).reader = Reader.closed := by decide +kernel

/-- FV3. -/
theorem test_frame_encode :
    (let t := ran .frameEncode 0x1000 3 0x2000 0x200 sourceZZZ
     t.res = #v[270, 5, 0, 0] ∧ memBytes t.mem 0x2000 270 = frameZZZ ∧ t.len.toList = lenZ.toList) := by
  decide +kernel

/-- FE9: a capacity below 269; R260: no histogram or tree is looked at. -/
theorem test_frame_encode_full :
    (let t := ran .frameEncode 0x1000 3 0x2000 268 sourceZZZ
     t.errcode = 0x41 ∧ t.errinfo = 269 ∧ t.writer = Writer.closed ∧ t.treeValid = false) := by
  decide +kernel

/-- R350, R72: the reset input frees no byte of a command that stores none before its error. -/
theorem test_reset_input_keeps_memory :
    (latched .bwWrite 0 65 0 0 writing).hardReset.mem = writing.mem ∧
    (latched .bwOpen 0xFFFFFFFFFFFFFFFF 2 0 0 writing).hardReset.mem = writing.mem := by
  decide +kernel

/-- R83: the byte a FREQ_LOAD reads where the host wrote during it is not tied to the byte memory keeps. -/
theorem test_raced_read :
    (let t := hostMemWrite (latched .freqLoad 0x1000 0 0 0 small) 0x1000 7
     t.raced = [0x1000] ∧ inRanges (viewOf .freqLoad t 0).fuzz 0x1000 = true ∧
     t.mem.regions.all fun r => decide (r.draw < (viewOf .freqLoad t 0).draw)) := by
  decide +kernel

/-- R350, R84: the bytes a stopped command stored are free under a draw that neither its own reads nor a
later one takes. -/
theorem test_reset_input_draw :
    (encoding.hardReset.mem.regions.any fun r => decide (r.draw = encoding.draws + 2)) = true ∧
    (viewOf .archAdd encoding 1).draw < encoding.draws + 2 ∧
    encoding.draws + 2 < encoding.hardReset.draws := by
  decide +kernel

/-- FV3-D. -/
theorem test_frame_decode :
    (let t := ran .frameDecode 0x2000 270 0x3000 3 (holding 0x2000 frameZZZ small)
     t.res = #v[3, 1, 5, 0] ∧ memBytes t.mem 0x3000 3 = [0x5A, 0x5A, 0x5A]) := by
  decide +kernel

/-- FE1. -/
theorem test_frame_decode_short :
    (let t := ran .frameDecode 0x2000 268 0x3000 3 (holding 0x2000 frameZZZ small)
     t.errcode = 0x22 ∧ t.errinfo = 268 ∧ t.reader.ropen = false) := by
  decide +kernel

/-- TV-A1, with E = 28: 9 + 3 * 28 = 93 bytes. -/
theorem test_arch_begin :
    (let t := ran .archBegin 0x4000 0x3000 3 0 small
     t.res = #v[93, 0, 0, 0] ∧ regValue t .aEnd = 93 ∧ regValue t .aCount = 0x30000 ∧
       memBytes t.mem 0x4000 9 = [0x48, 0x55, 0x46, 0x46, 1, 0, 0, 0, 0]) := by
  decide +kernel

/-- TV-A2, with E = 28. -/
theorem test_arch_begin_full :
    (let t := ran .archBegin 0x4000 92 3 0 small
     t.errcode = 0x41 ∧ t.errinfo = 93 ∧ t.create.archW = false) := by
  decide +kernel

/-- R282 on FV3: index 0, offset 65, 270 bytes. -/
theorem test_arch_add :
    (let t := ran .archAdd 0x1000 3 0x1100 2 creating
     t.res = #v[0, 65, 270, 0] ∧ regValue t .aEnd = 335 ∧ regValue t .aCount = 0x20001) := by
  decide +kernel

/-- TV-A5: a path length of 0. -/
theorem test_arch_add_bad_path :
    (let t := ran .archAdd 0x1000 3 0x1100 0 creating
     t.errcode = 0x59 ∧ t.errinfo = 0 ∧ t.create.partialAdd = true ∧ t.create.afail = 1) := by
  decide +kernel

/-- R283 after one member: the record of 30_encoding.md R108. -/
theorem test_arch_end :
    (let t := ran .archEnd 0 0 0 0 createdOne
     t.res = #v[335, 1, 0, 0] ∧ t.create.archW = false ∧ memBytes t.mem 0x4005 20 =
       [1, 0, 0, 0, 0x7A, 0x2E, 0, 0, 3, 0, 0, 0, 0, 0, 0, 0, 0x0E, 1, 0, 0]) := by
  decide +kernel

/-- TV-A17. -/
theorem test_arch_end_no_state :
    (let t := ran .archEnd 0 0 0 0 small; t.errcode = 0x57 ∧ t.errinfo = 0x52) := by
  decide +kernel

/-- R284 on an archive of one member. -/
theorem test_arch_open :
    (let t := ran .archOpen 0x4000 307 0 0 (holding 0x4000 archiveZ small)
     t.res = #v[1, 0, 0, 0] ∧ regValue t .aRcount = 1) := by
  decide +kernel

/-- TV-A8. -/
theorem test_arch_open_short :
    (let t := ran .archOpen 0x4000 8 0 0 archived
     t.errcode = 0x22 ∧ t.errinfo = 8 ∧ t.reading.archR = false) := by
  decide +kernel

/-- R285: original size, compressed size, data offset, path length. -/
theorem test_arch_entry : (ran .archEntry 0 0 0 0 archived).res = #v[3, 270, 37, 2] := by decide +kernel

/-- TV-A11, with N = 1. -/
theorem test_arch_entry_bad_index :
    (let t := ran .archEntry 1 0 0 0 archived
     t.errcode = 0x32 ∧ t.errinfo = 1 ∧ t.reading.archR = true) := by
  decide +kernel

/-- R286. -/
theorem test_arch_find :
    (let t := ran .archFind 0x1100 2 0 0 archived; t.err = false ∧ t.res = #v[0, 0, 0, 0]) := by
  decide +kernel

/-- TV-A13: a query longer than PATH_LEN. -/
theorem test_arch_find_long :
    (let t := ran .archFind 0x1100 300 0 0 archived; t.errcode = 0x31 ∧ t.errinfo = 0) := by
  decide +kernel

/-- R287 on FV3. -/
theorem test_arch_extract :
    (let t := ran .archExtract 0 0x8000 16 0 archived
     t.res = #v[3, 0, 0, 0] ∧ memBytes t.mem 0x8000 3 = [0x5A, 0x5A, 0x5A]) := by
  decide +kernel

/-- TV-A15: the original size changed to 4. -/
theorem test_arch_extract_size :
    (let t := ran .archExtract 0 0x8000 16 0 (holding 0x400D [4] archived)
     t.errcode = 0x2A ∧ t.errinfo = 0) := by
  decide +kernel

/-! ### Witnesses: states and operands that meet the hypotheses of each statement

The theorem `witness_X` is for `Obligations.X`; where a statement has several clauses it meets each of them,
at a boundary of its range where there is one. -/

theorem exec_after (i : Instr) (s : State) : exec i s = .next (after (exec i s)) := by
  rw [exec_eq_runCommand]
  unfold runCommand
  split
  · split <;> rfl
  · rfl

theorem readable_small {a n : Nat} (h : a + n ≤ addressLimit) : Readable small.params a n := by
  intro k hk
  have : a + k < addressLimit := by omega
  simp [admits, inRanges, inRange, small, Config.Params.default, this]

theorem writable_small {a n : Nat} (h : a + n ≤ addressLimit) : Writable small.params a n := by
  intro k hk
  have : a + k < addressLimit := by omega
  simp [admits, inRanges, inRange, small, Config.Params.default, this]

theorem small_legal : small.params.Legal := by decide

/-- Whether a step of a command succeeded. -/
def succeeds {α : Type} : Except CmdError α → Bool
  | .ok _ => true
  | .error _ => false

theorem ok_of_succeeds {α : Type} {x : Except CmdError α} (h : succeeds x = true) : ∃ a, x = .ok a := by
  cases x with
  | ok a => exact ⟨a, rfl⟩
  | error e => simp [succeeds] at h

theorem treeOf_ok {x : Except CmdError Tree} (h : succeeds x = true) : x = .ok (treeOf x) := by
  cases x with
  | ok a => rfl
  | error e => simp [succeeds] at h

theorem buildTree_W1 : buildTree freqW1 = .ok (treeOf (buildTree freqW1)) :=
  treeOf_ok (by decide +kernel)

theorem buildTree_Z : buildTree freqZ = .ok (treeOf (buildTree freqZ)) := treeOf_ok (by decide +kernel)

theorem assignCodes_C1 : assignCodes lenC1 = .ok (canonTables lenC1) := by
  obtain ⟨c, hc⟩ := ok_of_succeeds (x := assignCodes lenC1) (by decide +kernel)
  simp only [assignCodes] at hc ⊢
  split at hc <;> simp_all
  split at hc <;> simp_all

theorem assignCodes_Z : assignCodes lenZ = .ok (canonTables lenZ) := by
  obtain ⟨c, hc⟩ := ok_of_succeeds (x := assignCodes lenZ) (by decide +kernel)
  simp only [assignCodes] at hc ⊢
  split at hc <;> simp_all
  split at hc <;> simp_all

theorem small_sound : UnitsSound small := by
  unfold UnitsSound WriterSound ReaderSound CreateSound ReadingSound
  decide +kernel

theorem witness_AccessAcceptedIffAlignedAndMapped :
    small.resetHeld = false ∧ ({ small with resetHeld := true }).resetHeld = true ∧
    inWindow small.params 0x4FF8 = true ∧
    offsetOf (.sorted 255) = 0x4FF8 - small.params.mmioBase ∧
    inWindow small.params 0x5000 = true ∧ (∀ r, offsetOf r ≠ 0x5000 - small.params.mmioBase) ∧
    inWindow small.params 0x4FFC = true ∧ (0x4FFC - small.params.mmioBase) % 8 ≠ 0 := by
  refine ⟨by decide, rfl, by decide, by decide, by decide, fun r => ?_, by decide, by decide⟩
  cases r <;> simp [offsetOf, small, Config.Params.default] <;> omega

/-- Each unit and context open and closed, the last node and the last sorted entry and the ones after. -/
theorem witness_ReadsWhileBusy :
    (small.params.Legal ∧ small.errcode.toNat < 128 ∧ small.busy = false ∧
      (latched .nop 0 0 0 0 small).busy = true) ∧
    (writing.writer.wopen = true ∧ small.writer.wopen = false ∧ reading.reader.ropen = true ∧
      small.reader.ropen = false ∧ creating.create.archW = true ∧ small.create.archW = false ∧
      archived.reading.archR = true ∧ small.reading.archR = false) ∧
    (treeOf (buildTree freqW1)).nodeCount = 7 ∧ (withC1 small).canon.nsym = 4 ∧
    ∀ n, Reg.freq 0 ≠ .arg n ∧ Reg.freq 0 ≠ .res n := by
  refine ⟨by decide +kernel, by decide +kernel, by decide +kernel, by decide +kernel,
    fun n => ⟨by simp, by simp⟩⟩

theorem witness_TableWritesObeyBusy :
    small.busy = false ∧ (latched .nop 0 0 0 0 small).busy = true ∧
    Reg.id ≠ .ctrl ∧ ∀ n m k, Reg.id ≠ .arg n ∧ Reg.id ≠ .freq m ∧ Reg.id ≠ .len k := by
  refine ⟨rfl, rfl, by simp, fun n m k => ⟨by simp, by simp, by simp⟩⟩

theorem witness_CmdWriteIssues : small.busy = false := rfl

/-- The reset input: a command that would complete, one that would fail before it stores a byte, one
without its context, one that stores nothing, and a word that is none. -/
theorem witness_CtrlWriteResetsOrEnables :
    ((1 : Word).getLsbD 0 = true ∧ (2 : Word).getLsbD 0 = false ∧ small.busy = false ∧ small.mem.wf) ∧
    (encoding.mem.wf ∧ encoding.params.Legal ∧ decode encoding.latch.op = .ok .frameEncode ∧
      inRanges (writeRanges .frameEncode encoding) 0x210E = false ∧
      inRange (storedBy .frameEncode encoding) 0x210D = true ∧
      inRange (storedBy .frameEncode encoding) 0x210E = false) ∧
    (let s := latched .bwWrite 0 65 0 0 writing
     contextPresent .bwWrite s = true ∧ (after (exec .bwWrite s)).err = true ∧
     inRange (storedBy .bwWrite s) 0x2001 = false) ∧
    (decode (latched .archAdd 0 0 0 0 small).latch.op = .ok .archAdd ∧
      contextPresent .archAdd (latched .archAdd 0 0 0 0 small) = false ∧
      writeRanges .bwOpen (latched .bwOpen 0 0 0 0 writing) = []) ∧
    UnitsSound encoding ∧ ∀ i, decode 0x100 ≠ .ok i := by
  refine ⟨by decide, by decide +kernel, by decide +kernel, by decide, small_sound, fun i => ?_⟩
  cases i <;> decide

theorem witness_StepPerformsTheLatchedCommand :
    (let s := latched .frameEncode 0x1000 3 0x2000 0x200 small
     decode s.latch.op = .ok .frameEncode ∧ s.busy = true ∧ s.delay = 0 ∧
     ({ s with delay := 5 }).inputs = [] ∧ ({ s with delay := 5, inputs := [.wait] }).busy = true ∧
     decodeTableWord 8 0x40 = some .frameEncode ∧
     ({ s with delay := 1, inputs := [.memRead 0] }).delay ≠ 0 ∧ HostOp.memRead 0 ≠ .wait ∧
     small.busy = false ∧ small.inputs = []) := by
  decide +kernel

theorem witness_IllegalWordIsBadOpcode :
    engineTurn { latched .nop 0 0 0 0 small with latch := { op := 0x57, a := #v[0, 0, 0, 0] } } = true ∧
    decode 0x57 ≠ .ok .archExtract ∧ engineTurn (latched .archExtract 0 0 0 0 small) = true ∧
    engineTurn { latched .nop 0 0 0 0 small with latch := { op := 0x100, a := #v[0, 0, 0, 0] } } = true ∧
    (0x57 : Word).extractLsb' 8 56 = 0 ∧ ((0x57 : Word).extractLsb' 0 8).toNat = 0x57 ∧
    (0x100 : Word).extractLsb' 8 56 ≠ 0 := by
  decide +kernel

theorem witness_StepStopsOnlyOutsideTheAddressSpace :
    engineTurn { small with inputs := [.memRead addressLimit] } = false ∧
    ({ small with inputs := [.memRead addressLimit] }).inputs = [.memRead addressLimit] ∧
    engineTurn { latched .nop 0 0 0 0 small with delay := 1, inputs := [.memWrite addressLimit 0] } = false := by
  decide

theorem witness_HostMemoryAccesses :
    (let s := latched .frameEncode 0x1000 3 0x2000 0x200 small
     s.mem.wf ∧ inRunningRanges s 0x1002 = true ∧ inRunningRanges s 0x1003 = false ∧
     inRunningRanges s 0x1FFF = false ∧ inRunningRanges s 0x2000 = true ∧
     inRunningRanges s 0x21FF = true ∧ inRunningRanges s 0x2200 = false ∧
     inRanges s.params.sideRead 0x2200 = false ∧
     inRunningRanges small (addressLimit - 1) = false) ∧
    inRanges ({ small.params with sideRead := [⟨0x10, 0x11⟩] }).sideRead 0x10 = true := by
  decide +kernel

theorem witness_EveryCommandCompletes : small.err = false := rfl

theorem witness_CommandsKeepTheHostSide :
    exec .freqClear small = .next (after (exec .freqClear small)) := exec_after _ _

theorem witness_CommandsWriteOnlyTheirUnits :
    exec .freqClear small = .next (after (exec .freqClear small)) ∧
    Instr.freqClear ∉ [Instr.treeBuild, .frameEncode, .archAdd] ∧
    Instr.bwOpen ∉ [Instr.freqClear, .freqLoad] := ⟨exec_after _ _, by decide, by decide⟩

theorem witness_CommandsWriteOnlyTheirRanges :
    (encoding.mem.wf ∧ encoding.params.Legal ∧ RaceFree encoding ∧
     inRanges (writeRanges .frameEncode encoding) 0x1FFF = false ∧
     inRanges (failureRanges .frameEncode encoding) 0x1FFF = false ∧
     contextPresent .frameEncode encoding = true ∧ (bodyOf .frameEncode encoding).isOk = true ∧
     inRange (storedBy .frameEncode encoding) 0x1FFF = false) ∧
    UnitsSound encoding ∧ exec .frameEncode encoding = .next (after (exec .frameEncode encoding)) ∧
    exec .nop small = .next (after (exec .nop small)) :=
  ⟨by decide +kernel, small_sound, exec_after _ _, exec_after _ _⟩

/-- Each context absent in turn, and one command whose context is present. -/
theorem witness_MissingContextIsNoState :
    small.treeValid = false ∧ small.writer.wopen = false ∧ small.reader.ropen = false ∧
    small.create.archW = false ∧ small.reading.archR = false ∧
    (writing.writer.wopen = true ∧ writing.canonValid = false) ∧
    ({ small with treeValid := true }).errcode ≠ 0x57 := by
  decide +kernel

theorem witness_SimpleCommandsFailWithoutEffect :
    small.err = false ∧ exec .treeBuild small = .next (after (exec .treeBuild small)) ∧
    (after (exec .treeBuild small)).err = true := ⟨rfl, exec_after _ _, by decide +kernel⟩

theorem witness_FailuresCloseTheStreamUnits :
    (let s := latched .bwWrite 0 65 0 0 writing
     s.err = false ∧ contextPresent .bwWrite s = true ∧ (after (exec .bwWrite s)).err = true) ∧
    (let s := latched .brSym 0 0 0 0
        { reading with canon := Canon.zero, canonValid := true }
     s.err = false ∧ contextPresent .brSym s = true ∧ (after (exec .brSym s)).err = true) ∧
    contextPresent .frameEncode small = true ∧ contextPresent .frameDecode small = true := by
  decide +kernel

/-- One byte too long, for each form of range. -/
theorem witness_PassingTheAddressSpaceIsBadRange :
    (let s := latched .freqLoad 0xFFFFFFFFFFFFF801 0 0 0 small
     s.err = false ∧ contextPresent .freqLoad s = true ∧ addressLimit < a0 s + 2048) ∧
    (let s := latched .bwOpen 0xFFFFFFFFFFFFFFFF 2 0 0 small
     contextPresent .bwOpen s = true ∧ addressLimit < a0 s + a1 s) ∧
    (let s := latched .frameEncode 0xFFFFFFFFFFFFFFFF 1 0xFFFFFFFFFFFFFFFF 2 small
     contextPresent .frameEncode s = true ∧ a0 s + a1 s ≤ addressLimit ∧ addressLimit < a2 s + a3 s) ∧
    (let s := latched .archExtract 0 0xFFFFFFFFFFFFFFFF 2 0 archived
     contextPresent .archExtract s = true ∧ addressLimit < a1 s + a2 s) := by
  decide +kernel

theorem witness_FreqLoadReadsTheTable :
    a0 (latched .freqLoad 0xFFFFFFFFFFFFF800 0 0 0 small) + 2048 ≤ addressLimit ∧
    Readable (latched .freqLoad 0xFFFFFFFFFFFFF800 0 0 0 small).params 0xFFFFFFFFFFFFF800 2048 ∧
    (let s := latched .freqLoad 0x1000 0 0 0
        { small with params := { small.params with admitR := [⟨0, 0x17FF⟩] } }
     (∀ k, k < 2047 → admits s.params.admitR (a0 s + k) = true) ∧
       admits s.params.admitR (a0 s + 2047) = false) :=
  ⟨by decide, readable_small (by decide), by decide +kernel⟩

theorem witness_TreeBuildCompletes :
    freqSum freqW1 < addressLimit ∧ 4 = (freqW1.toList.filter (· ≠ 0)).length ∧
    freqSum freqZ < addressLimit ∧ 1 = (freqZ.toList.filter (· ≠ 0)).length := by
  decide +kernel

/-- The tree of W1 has the internal nodes 4 to 6; node 6 merges the leaf 0 and node 5. -/
theorem witness_TreeWeightsNeverDecrease :
    buildTree freqW1 = .ok (treeOf (buildTree freqW1)) ∧
    (let t := treeOf (buildTree freqW1)
     t.active = 4 ∧ t.nodeCount = 7 ∧ t.root = 6 ∧ ChildOf t 0 6 ∧ ChildOf t 5 6 ∧ Parentless t 5 0) := by
  refine ⟨buildTree_W1, by decide +kernel, by decide +kernel, by decide +kernel, ?_, ?_, ?_⟩
  · unfold ChildOf; decide +kernel
  · unfold ChildOf; decide +kernel
  · unfold Parentless ChildOf; decide +kernel

theorem witness_TreeBuildRefusesEmptyAndOverflow :
    addressLimit ≤ freqSum ((small.freq.set 0 0x8000000000000000).set 1 0x8000000000000000) ∧
    ∀ k : Fin 256, small.freq[k] = 0 := by
  decide +kernel

/-- Fibonacci frequencies of 66 symbols, the deepest sum of TV-T7. -/
def freqT7 : Vector Word 256 := tabulate fun k : Fin 256 =>
  if k.val < 66 then BitVec.ofNat 64 (Nat.fib (k.val + 1)) else 0

theorem buildTree_T7 : buildTree freqT7 = .ok (treeOf (buildTree freqT7)) := treeOf_ok (by decide +kernel)

theorem witness_TreeLengthsCompletes :
    buildTree freqW1 = .ok (treeOf (buildTree freqW1)) ∧
    (let t := treeOf (buildTree freqW1)
     ∀ k, k < 256 → symbolDepth t (leafDepths t 512 t.root.toNat 0) (BitVec.ofNat 8 k) ≤ 64) ∧
    buildTree freqT7 = .ok (treeOf (buildTree freqT7)) ∧
    (let t := treeOf (buildTree freqT7)
     64 < symbolDepth t (leafDepths t 512 t.root.toNat 0) (BitVec.ofNat 8 0)) :=
  ⟨buildTree_W1, by decide +kernel, buildTree_T7, by decide +kernel⟩

theorem witness_TreeLengthsMeetKraft :
    ∃ t l, buildTree freqW1 = .ok t ∧ treeDepths t = .ok l := by
  obtain ⟨l, hl⟩ := ok_of_succeeds (x := treeDepths (treeOf (buildTree freqW1))) (by decide +kernel)
  exact ⟨_, l, buildTree_W1, hl⟩

theorem witness_CanonAssignCompletes :
    (∀ k : Fin 256, lenC1[k].toNat ≤ 64) ∧ firstCode lenC1 0 = 0 ∧
    (∀ n, n < 64 → firstCode lenC1 (n + 1) =
      (firstCode lenC1 n + if n = 0 then 0 else lengthCount lenC1 n) * 2) ∧
    (∀ n, n < 65 → 1 ≤ n → firstCode lenC1 n + lengthCount lenC1 n ≤ 2 ^ n) := by
  decide +kernel

theorem witness_SortedIsByLengthThenSymbol : ∃ c, assignCodes lenC1 = .ok c := ⟨_, assignCodes_C1⟩

/-- TV-C4, TV-C3 and TV-C8. -/
theorem witness_CanonAssignRejectsBadLengths :
    (let l := small.len.set 7 65
     64 < l[7].toNat ∧ ∀ j : Fin 256, j.val < 7 → l[j].toNat ≤ 64) ∧
    (let l := ((small.len.set 0 1).set 1 1).set 2 2
     (∀ k : Fin 256, l[k].toNat ≤ 64) ∧ 2 ^ 2 < firstCode l 2 + lengthCount l 2 ∧
       firstCode l 1 + lengthCount l 1 ≤ 2 ^ 1) ∧
    (let l := ((small.len.set 0 1).set 1 1).set 2 1
     2 ^ 1 < firstCode l 1 + lengthCount l 1) := by
  decide +kernel

theorem witness_CanonicalCodesDecodeUniquely :
    (∃ c, assignCodes lenC1 = .ok c) ∧ lenC1[0x43] = lenC1[0x44] ∧ lenC1[0x43] ≠ 0 ∧
    1 < lenC1[0x43].toNat := ⟨⟨_, assignCodes_C1⟩, by decide +kernel⟩

theorem writing_sound : WriterSound writing.params writing.writer := by
  unfold WriterSound
  decide +kernel

/-- 64 bits fit behind 19; the capacity is met exactly. -/
theorem witness_BwWriteAppendsBits :
    (let s := latched .bwWrite 0 64 0 0 { writing with writer := { writing.writer with wcap := 10 } }
     s.writer.wopen = true ∧ RaceFree s ∧ a1 s ≤ 64 ∧
     (8 * s.writer.wpos.toNat + s.writer.wnacc.toNat + a1 s) / 8 ≤ s.writer.wcap.toNat) ∧
    WriterSound writing.params { writing.writer with wcap := 10 } ∧
    Writable writing.params 0x2000 10 :=
  ⟨by decide +kernel, by unfold WriterSound; decide +kernel, writable_small (by decide)⟩

theorem witness_BwSymAppendsTheCode :
    (let s := latched .bwSym 0x43 0 0 0 (withC1 writing)
     s.writer.wopen = true ∧ s.canonValid = true ∧ a0 s = 0x43 ∧ s.len[0x43] ≠ 0 ∧ RaceFree s ∧
     (8 * s.writer.wpos.toNat + s.writer.wnacc.toNat + s.len[0x43].toNat) / 8 ≤ s.writer.wcap.toNat) ∧
    WriterSound writing.params writing.writer ∧ Writable writing.params 0x2000 16 ∧
    255 < a0 (latched .bwSym 256 0 0 0 (withC1 writing)) ∧ (withC1 writing).len[0x45] = 0 ∧
    a0 (latched .bwSym 0x45 0 0 0 (withC1 writing)) = 0x45 ∧ (withC1 writing).err = false :=
  ⟨by decide +kernel, writing_sound, writable_small (by decide), by decide +kernel⟩

/-- 19 bits flush into exactly 3 bytes. -/
theorem witness_BwFlushPadsAndCloses :
    (let s := latched .bwFlush 0 0 0 0 { writing with writer := { writing.writer with wcap := 3 } }
     s.writer.wopen = true ∧ RaceFree s ∧
     3 = bytesFor (8 * s.writer.wpos.toNat + s.writer.wnacc.toNat) ∧ 3 ≤ s.writer.wcap.toNat) ∧
    WriterSound writing.params { writing.writer with wcap := 3 } ∧ Writable writing.params 0x2000 3 :=
  ⟨by decide +kernel, by unfold WriterSound; decide +kernel, writable_small (by decide)⟩

theorem witness_FullDestinationIsDstFull :
    (let s := latched .bwWrite 0 5 0 0 { writing with writer := { writing.writer with wcap := 2 } }
     s.err = false ∧ s.writer.wopen = true ∧ a1 s ≤ 64 ∧
     s.writer.wcap.toNat < (8 * s.writer.wpos.toNat + s.writer.wnacc.toNat + a1 s) / 8 ∧
     s.writer.wcap.toNat + 1 < addressLimit) ∧
    WriterSound writing.params { writing.writer with wcap := 2 } ∧ Writable writing.params 0x2000 2 :=
  ⟨by decide +kernel, by unfold WriterSound; decide +kernel, writable_small (by decide)⟩

theorem witness_StreamUnitsOpenAndClose :
    a0 (latched .bwOpen 0xFFFFFFFFFFFFFFFF 1 0 0 small) +
      a1 (latched .bwOpen 0xFFFFFFFFFFFFFFFF 1 0 0 small) ≤ addressLimit := by
  decide

theorem reading_sound : ReaderSound reading.reader := by
  unfold ReaderSound
  decide +kernel

theorem witness_BrReadbitReturnsTheNextBit :
    reading.reader.ropen = true ∧ ReaderSound reading.reader ∧
    readerBits reading.reader reading.mem =
      true :: [true, false, true, true, false, true, true, true, false, false, false, false, false, false, false] ∧
    RaceFree reading ∧ Readable reading.params 0x3000 1 ∧
    readerBits { reading.reader with rlen := 0 } reading.mem = [] ∧
    (let s := { reading with params := { reading.params with admitR := [] } }
     s.err = false ∧ s.reader.rnb = 0 ∧ s.reader.rpos.toNat < s.reader.rlen.toNat ∧
     admits s.params.admitR (s.reader.rsrc.toNat + s.reader.rpos.toNat) = false) :=
  ⟨rfl, reading_sound, by decide +kernel, rfl, readable_small (by decide), by decide +kernel,
    by decide +kernel⟩

theorem withC1_current (s : State) : CanonCurrent (withC1 s) := fun _ => assignCodes_C1

theorem witness_BrSymDecodesTheCode :
    (let s := withC1 reading
     s.reader.ropen = true ∧ s.canonValid = true ∧ s.len[0x43] ≠ 0 ∧
     readerBits s.reader s.mem = codeBits s.len 0x43 ++
       [true, true, false, true, true, true, false, false, false, false, false, false, false]) ∧
    CanonCurrent (withC1 reading) ∧ ReaderSound reading.reader ∧ RaceFree (withC1 reading) ∧
    Readable reading.params 0x3000 2 ∧
    Canon.zero.nsym = 0 ∧ (withC1 reading).canon.nsym ≠ 0 ∧
    readerBits { reading.reader with rlen := 0 } reading.mem = [] :=
  ⟨by decide +kernel, withC1_current _, reading_sound, rfl, readable_small (by decide), by decide +kernel⟩

/-! The frame codec's witnesses: "ZZZ" with its histogram, into exactly 270 bytes. -/

theorem frameLengths_Z : frameLengths freqZ 3 = .ok lenZ := by
  have h : frameLengths freqZ 3 = treeDepths (treeOf (buildTree freqZ)) := by
    unfold frameLengths
    rw [if_neg (by decide)]
    conv => lhs; rw [buildTree_Z]
    rfl
  rw [h]
  obtain ⟨l, hl⟩ := ok_of_succeeds (x := treeDepths (treeOf (buildTree freqZ))) (by decide +kernel)
  have hv : (match treeDepths (treeOf (buildTree freqZ)) with
      | .ok l => l.toList
      | .error _ => []) = lenZ.toList := by decide +kernel
  rw [hl] at hv ⊢
  exact congrArg Except.ok (Vector.toList_inj.1 hv)

theorem source_bytes : memBytes sourceZZZ.mem 0x1000 3 = [0x5A, 0x5A, 0x5A] := by decide +kernel

theorem payload_Z : payloadBits lenZ [0x5A, 0x5A, 0x5A] = [false, false, false] := by decide +kernel

theorem encodeReady_Z {s : State} {dst cap : Nat} (hm : s.mem = sourceZZZ.mem) (hf : s.freq = freqZ)
    (hp : s.params = small.params) (hc : 270 ≤ cap) (hd : dst + cap ≤ addressLimit) :
    EncodeReady s 0x1000 3 dst cap lenZ := by
  unfold EncodeReady
  rw [hm, hf, hp, source_bytes, payload_Z]
  refine ⟨by decide, hd, by decide +kernel, frameLengths_Z, by decide +kernel, ?_, ?_, ?_⟩
  · simp [bytesFor]
    omega
  · exact readable_small (by decide)
  · exact writable_small (by simp [bytesFor]; omega)

theorem encoding_ready : EncodeReady encoding (a0 encoding) (a1 encoding) (a2 encoding) (a3 encoding) lenZ :=
  encodeReady_Z rfl rfl rfl (by decide) (by decide)

theorem witness_FrameEncodeWritesTheFrame :
    EncodeReady encoding (a0 encoding) (a1 encoding) (a2 encoding) (a3 encoding) lenZ ∧
    RaceFree encoding ∧ OverlapFree .frameEncode encoding ∧
    [0x5A, 0x5A, 0x5A] = memBytes encoding.mem (a0 encoding) (a1 encoding) ∧
    assignCodes lenZ = .ok (canonTables lenZ) :=
  ⟨encoding_ready, rfl, by decide +kernel, source_bytes.symm, assignCodes_Z⟩

theorem witness_FrameEncodeChecksItsInputs :
    sourceZZZ.err = false ∧ a3 (latched .frameEncode 0x1000 3 0x2000 268 sourceZZZ) < 269 ∧
    269 ≤ a3 (latched .frameEncode 0x1000 3 0x2000 269 sourceZZZ) ∧
    addressLimit ≤ freqSum ((small.freq.set 0 0x8000000000000000).set 1 0x8000000000000000) ∧
    freqSum freqZ ≠ a1 (latched .frameEncode 0x1000 4 0x2000 269 sourceZZZ) ∧
    (buildTree freqT7 = .ok (treeOf (buildTree freqT7)) ∧
     freqSum freqT7 = a1 (latched .frameEncode 0x1000 72723460248140 0x2000 269 small) ∧
     (match treeDepths (treeOf (buildTree freqT7)) with
      | .error e => decide (e = { code := .codeTooLong, info := 0 })
      | .ok _ => false) = true) :=
  ⟨rfl, by decide +kernel, by decide +kernel, by decide +kernel, by decide +kernel,
    buildTree_T7, by decide +kernel, by decide +kernel⟩

theorem holdsFrame_of {m : Memory} {src : Nat}
    (h : memBytes m src 269 = frameMagic ++ leBytes 8 3 ++ lenZ.toList ++ [5])
    (hb : readByte m (src + 269) = 0) : HoldsFrame m src 270 lenZ 5 [0x5A, 0x5A, 0x5A] := by
  refine ⟨by decide, by decide, h, ⟨_, assignCodes_Z⟩, by decide +kernel, ?_⟩
  rw [payload_Z]
  have : memBytes m (src + 269) (270 - 269) = [0] := by simp [memBytes, hb]
  rw [this]
  decide

/-- The decoder's state: the frame of "ZZZ" at 0x2000, a destination of exactly 3 bytes. -/
def decoding : State := latched .frameDecode 0x2000 270 0x3000 3 (holding 0x2000 frameZZZ small)

theorem decoding_holds : HoldsFrame decoding.mem 0x2000 270 lenZ 5 [0x5A, 0x5A, 0x5A] :=
  holdsFrame_of (by decide +kernel) (by decide +kernel)

theorem witness_FrameDecodeRecoversTheSymbols :
    DecodeReady decoding (a0 decoding) (a1 decoding) (a2 decoding) (a3 decoding) lenZ 5
      [0x5A, 0x5A, 0x5A] ∧
    RaceFree decoding ∧ OverlapFree .frameDecode decoding ∧
    assignCodes lenZ = .ok (canonTables lenZ) :=
  ⟨⟨by decide, by decide, decoding_holds, by decide, readable_small (by decide),
    writable_small (by decide)⟩, rfl, by decide +kernel, assignCodes_Z⟩

theorem roundTrip_of (t : State) (hp : t.params = small.params) (hr : t.res[0] = 270) :
    (let u := latched .frameDecode 0x2000 270 0x3000 3 t
     (∀ k, k < t.res[0].toNat →
       readByte u.mem (a2 encoding + k) = readByte t.mem (a2 encoding + k)) ∧ a0 u = a2 encoding ∧ a1 u = t.res[0].toNat ∧ a2 u + a3 u ≤ addressLimit ∧
     a1 encoding ≤ a3 u ∧ Readable u.params (a0 u) (a1 u) ∧ Writable u.params (a2 u) (a1 encoding)) := by
  have h0 : a0 (latched .frameDecode 0x2000 270 0x3000 3 t) = 0x2000 := rfl
  have h1 : a1 (latched .frameDecode 0x2000 270 0x3000 3 t) = 270 := rfl
  have h2 : a2 (latched .frameDecode 0x2000 270 0x3000 3 t) = 0x3000 := rfl
  have h3 : a3 (latched .frameDecode 0x2000 270 0x3000 3 t) = 3 := rfl
  have h4 : (latched .frameDecode 0x2000 270 0x3000 3 t).params = small.params := hp
  simp only [h0, h1, h2, h3, h4, hr]
  exact ⟨fun _ _ => rfl, by decide, by decide, by decide, by decide, readable_small (by decide),
    writable_small (by decide)⟩

/-- The same destination as FV3-D, decoding what the encoder's state wrote. -/
theorem witness_FrameRoundTrip :
    EncodeReady encoding (a0 encoding) (a1 encoding) (a2 encoding) (a3 encoding) lenZ ∧
    exec .frameEncode encoding = .next (after (exec .frameEncode encoding)) ∧
    (after (exec .frameEncode encoding)).params = small.params ∧
    (after (exec .frameEncode encoding)).res[0] = 270 ∧
    RaceFree (latched .frameDecode 0x2000 270 0x3000 3 (after (exec .frameEncode encoding))) ∧
    OverlapFree .frameDecode (latched .frameDecode 0x2000 270 0x3000 3 (after (exec .frameEncode encoding))) :=
  ⟨encoding_ready, exec_after _ _, by decide +kernel⟩

/-! The archive's witnesses. -/

/-- Room for exactly one slot more than none: 9 + 3 * 28 = 93 bytes for the most slots. -/
theorem witness_ArchBeginOpensTheArchive :
    small.params.Legal ∧ small.err = false ∧
    (let s := latched .archBegin 0x4000 93 3 0 small
     93 = 9 + a2 s * (s.params.pathLen + 24) ∧ a0 s + a1 s ≤ addressLimit ∧
     a2 s ≤ s.params.maxMembers ∧ 93 ≤ a1 s ∧ RaceFree s) ∧
    Writable small.params 0x4000 93 ∧
    (let s := latched .archBegin 0x4000 93 4 0 small
     s.params.maxMembers < a2 s ∧ (after (exec .archBegin s)).err = true) ∧
    (let s := latched .archBegin 0x4000 92 3 0 small
     a1 s < 93 ∧ (after (exec .archBegin s)).err = true) :=
  ⟨small_legal, rfl, by decide +kernel, writable_small (by decide), by decide +kernel, by decide +kernel⟩

theorem creating_sound : CreateSound creating.params creating.create := by
  unfold CreateSound
  decide +kernel

theorem createdOne_sound : CreateSound createdOne.params createdOne.create := by
  unfold CreateSound
  decide +kernel

/-- The add: a path of one byte less than PATH_LEN would still fit. -/
def adding : State := latched .archAdd 0x1000 3 0x1100 2 creating

theorem witness_ArchAddCompletes :
    adding.params.Legal ∧ CreateSound adding.params adding.create ∧ adding.create.archW = true ∧
    adding.create.an ≠ adding.create.aslots ∧ RaceFree adding ∧ OverlapFree .archAdd adding ∧
    (a2 adding + a3 adding ≤ addressLimit ∧ 1 ≤ a3 adding ∧ a3 adding ≤ adding.params.pathLen - 1) ∧
    Readable adding.params (a2 adding) (a3 adding) ∧
    [0x7A, 0x2E] = memBytes adding.mem (a2 adding) (a3 adding) ∧ (0 : Byte) ∉ [0x7A, (0x2E : Byte)] ∧
    memBytes adding.mem (a0 adding) (a1 adding) = [0x5A, 0x5A, 0x5A] ∧
    frameLengths adding.freq (a1 adding) = .ok lenZ ∧
    (269 + bytesFor (payloadBits lenZ [0x5A, 0x5A, 0x5A]).length ≤
      adding.create.acap.toNat - adding.create.aend.toNat) ∧
    assignCodes lenZ = .ok (canonTables lenZ) :=
  ⟨small_legal, creating_sound, rfl, by decide +kernel, rfl, by decide +kernel, by decide +kernel,
    readable_small (by decide), by decide +kernel, by decide, by decide +kernel, frameLengths_Z,
    by rw [payload_Z]; decide, assignCodes_Z⟩

theorem witness_FailedAddIsIsolated :
    (let s := latched .archAdd 0x1000 3 0x1100 0 creating
     s.err = false ∧ s.mem.wf ∧ s.create.archW = true ∧ (after (exec .archAdd s)).err = true ∧
     0 < s.create.aend.toNat) := by
  decide +kernel

theorem witness_ArchEndWritesTheTable :
    createdOne.create.archW = true ∧ createdOne.params.Legal ∧
    CreateSound createdOne.params createdOne.create ∧ RaceFree createdOne ∧
    Writable createdOne.params createdOne.create.abase.toNat
      (9 + createdOne.create.an.toNat * (createdOne.params.pathLen + 24)) ∧
    createdOne.create.ram[0]? = some { path := [0x7A, 0x2E, 0, 0], orig := 3, comp := 270, off := 65 } :=
  ⟨rfl, small_legal, createdOne_sound, rfl, writable_small (by decide), rfl⟩

/-- The table ends exactly at the archive's end: 9 + 28 bytes. -/
theorem witness_ArchOpenCompletes :
    (let s := latched .archOpen 0x4000 37 0 0 archived
     a0 s + a1 s ≤ addressLimit ∧ memBytes s.mem (a0 s) 5 = [0x48, 0x55, 0x46, 0x46, 0x01] ∧
     1 = leRead (memBytes s.mem (a0 s + 5) 4) ∧ 9 + 1 * (s.params.pathLen + 24) ≤ a1 s) ∧
    RaceFree archived ∧ Readable archived.params 0x4000 9 :=
  ⟨by decide +kernel, rfl, readable_small (by decide)⟩

theorem witness_ArchOpenRejectsBadArchives :
    archived.err = false ∧ RaceFree archived ∧ a1 (latched .archOpen 0x4000 8 0 0 archived) < 9 ∧
    Readable archived.params 0x4000 9 ∧
    memBytes (holding 0x4003 [0x47] archived).mem 0x4000 4 ≠ [0x48, 0x55, 0x46, 0x46] ∧
    (memBytes (holding 0x4004 [2] archived).mem 0x4000 4 = [0x48, 0x55, 0x46, 0x46] ∧
     readByte (holding 0x4004 [2] archived).mem 0x4004 ≠ 1) ∧
    (memBytes archived.mem 0x4000 5 = [0x48, 0x55, 0x46, 0x46, 0x01] ∧
     a1 (latched .archOpen 0x4000 36 0 0 archived) <
       9 + leRead (memBytes archived.mem 0x4005 4) * (archived.params.pathLen + 24)) :=
  ⟨rfl, rfl, by decide +kernel, readable_small (by decide), by decide +kernel, by decide +kernel,
    by decide +kernel⟩

theorem witness_ArchEntryReturnsTheRecord :
    archived.reading.archR = true ∧ RaceFree archived ∧
    a0 (latched .archEntry 0 0 0 0 archived) < archived.reading.xn.toNat ∧
    Readable archived.params (0x4000 + 9) (archived.params.pathLen + 24) ∧
    archived.reading.xn.toNat ≤ a0 (latched .archEntry 1 0 0 0 archived) :=
  ⟨rfl, rfl, by decide +kernel, readable_small (by decide), by decide +kernel⟩

theorem witness_ArchFindReturnsTheFirstMatch :
    archived.reading.archR = true ∧ RaceFree archived ∧
    archived.params.pathLen < a1 (latched .archFind 0x1100 5 0 0 archived) ∧
    a1 (latched .archFind 0x1100 2 0 0 archived) ≤ archived.params.pathLen ∧
    Readable archived.params 0x1100 2 ∧
    Readable archived.params (0x4000 + 9) (archived.reading.xn.toNat * (archived.params.pathLen + 24)) ∧
    (memBytes archived.mem (0x4000 + 9) archived.params.pathLen).takeWhile (· ≠ 0) =
      memBytes archived.mem 0x1100 2 ∧
    (memBytes archived.mem (0x4000 + 9) archived.params.pathLen).takeWhile (· ≠ 0) ≠
      memBytes archived.mem 0x1100 1 :=
  ⟨rfl, rfl, by decide +kernel, by decide +kernel, readable_small (by decide), readable_small (by decide),
    by decide +kernel, by decide +kernel⟩

theorem archived_sound : ReadingSound archived.params archived.reading := by
  unfold ReadingSound
  decide +kernel

/-- The extract: the member ends exactly at the archive's end, the destination holds exactly 3 bytes. -/
def extracting : State := latched .archExtract 0 0x8000 3 0 archived

theorem witness_ArchExtractWritesTheMember :
    extracting.reading.archR = true ∧
    (a0 extracting < extracting.reading.xn.toNat ∧ leRead (memBytes extracting.mem 0x400D 8) = 3 ∧
     leRead (memBytes extracting.mem 0x4015 8) = 270 ∧ leRead (memBytes extracting.mem 0x401D 8) = 37 ∧
     37 + 270 ≤ extracting.reading.xlen.toNat ∧ a1 extracting + a2 extracting ≤ addressLimit) ∧
    Readable extracting.params 0x400D 24 ∧ RaceFree extracting ∧ OverlapFree .archExtract extracting ∧
    ReadingSound extracting.params extracting.reading ∧
    DecodeReady extracting (extracting.reading.xbase.toNat + 37) 270 (a1 extracting) (a2 extracting) lenZ 5
      [0x5A, 0x5A, 0x5A] ∧
    assignCodes lenZ = .ok (canonTables lenZ) :=
  ⟨rfl, by decide +kernel, readable_small (by decide), rfl, by decide +kernel, archived_sound,
    ⟨by decide, by decide, holdsFrame_of (by decide +kernel) (by decide +kernel), by decide,
      readable_small (by decide), writable_small (by decide)⟩, assignCodes_Z⟩

theorem witness_DecodersCheckTheirInputs :
    a1 (latched .frameDecode 0x2000 268 0x3000 3 small) < 269 ∧
    (let s := latched .frameDecode 0x1000 269 0x3000 3 sourceZZZ
     269 ≤ a1 s ∧ RaceFree s ∧ OverlapFree .frameDecode s) ∧
    memBytes (holding 0x1000 [0] small).mem 0x1000 1 = [0] ∧ Readable small.params 0x1000 4 ∧
    archived.reading.xn.toNat ≤ a0 (latched .archExtract 1 0x8000 3 0 archived) ∧
    (let s := latched .archExtract 0 0x8000 3 0
        { archived with reading := { archived.reading with xlen := 306 } }
     a0 s < s.reading.xn.toNat ∧ RaceFree s ∧ OverlapFree .archExtract s ∧ s.reading.xlen.toNat <
       leRead (memBytes s.mem (0x400D + 16) 8) + leRead (memBytes s.mem (0x400D + 8) 8)) ∧
    ReadingSound archived.params { archived.reading with xlen := 306 } ∧
    Readable archived.params 0x400D 24 :=
  ⟨by decide, by decide +kernel, by decide +kernel, readable_small (by decide), by decide +kernel,
    by decide +kernel, by unfold ReadingSound; decide +kernel, readable_small (by decide)⟩

/-! The invariants' witnesses: a state of each that the step changes. -/

theorem step_latched (i : Instr) (x0 x1 x2 x3 : Word) (s : State) (hd : s.delay = 0)
    (h : decode (encode i) = .ok i) :
    step (latched i x0 x1 x2 x3 s) = .next (after (exec i (latched i x0 x1 x2 x3 s))) := by
  have ht : engineTurn (latched i x0 x1 x2 x3 s) = true := by simp [engineTurn, latched, hd]
  have hop : (latched i x0 x1 x2 x3 s).latch.op = encode i := rfl
  simp only [step, ht, if_true, engineStep, hop, h]
  exact exec_after _ _

theorem witness_StepKeepsMemoryCanonical :
    adding.mem.wf ∧ step adding = .next (after (exec .archAdd adding)) :=
  ⟨by decide +kernel, step_latched _ _ _ _ _ _ rfl (by decide)⟩

theorem witness_StepKeepsStatusConsistent :
    StatusConsistent adding ∧ step adding = .next (after (exec .archAdd adding)) := by
  refine ⟨⟨by decide +kernel, by decide +kernel, ?_⟩, step_latched _ _ _ _ _ _ rfl (by decide)⟩
  intro h
  exact absurd h (by decide +kernel)

theorem witness_StepKeepsTablesCurrent :
    TreeCurrent (withC1 { adding with freq := freqW1, tree := treeOf (buildTree freqW1), treeValid := true }) ∧
    CanonCurrent (withC1 adding) ∧ step adding = .next (after (exec .archAdd adding)) :=
  ⟨fun _ => buildTree_W1, withC1_current _, step_latched _ _ _ _ _ _ rfl (by decide)⟩

theorem witness_StepKeepsUnitsSound :
    adding.params.Legal ∧ UnitsSound adding ∧ step adding = .next (after (exec .archAdd adding)) :=
  ⟨small_legal, ⟨by unfold WriterSound; decide +kernel, by unfold ReaderSound; decide +kernel,
    creating_sound, by unfold ReadingSound; decide +kernel⟩, step_latched _ _ _ _ _ _ rfl (by decide)⟩

end Sys2Proof.Tests
end

namespace Sys2Proof.Machine

/-! PROOFS. The state: reset, the register map, what commands leave unchanged, and the invariants of STATUS
and of the tables. -/

/-! ### What a command's body commits

The body of a command changes the engine by a sequence of commits, each to one table, unit or context. A
commit names the commands that may make it, so one description serves the frame of every command, the
host's side, and the invariants of the tables. -/

/-- One commit of the body of the command `i` (each rule's "Writes"): a new FREQ clears TREE_VALID, a tree
is built from FREQ, new lengths clear CANON_VALID, the canonical tables are derived from LEN. -/
inductive Commit (i : Instr) : State → State → Prop
  | freq {s : State} (hi : i ∈ [.freqClear, .freqLoad]) (f : Vector Word 256) :
      Commit i s { s with freq := f, treeValid := false }
  | tree {s : State} {t : Tree} (hi : i ∈ [.treeBuild, .frameEncode, .archAdd])
      (ht : buildTree s.freq = .ok t) : Commit i s (withTree s t)
  | len {s : State} (hi : i ∈ [.treeLengths, .frameEncode, .frameDecode, .archAdd, .archExtract])
      (l : Vector Byte 256) : Commit i s (withLengths s l)
  | canon {s : State} {c : Canon}
      (hi : i ∈ [.canonAssign, .frameEncode, .frameDecode, .archAdd, .archExtract])
      (hc : assignCodes s.len = .ok c) : Commit i s (withCanon s c)
  | writer {s : State} (hi : i ∈ [.bwOpen, .bwWrite, .bwSym, .bwFlush, .frameEncode, .archAdd])
      (w : Writer) : Commit i s { s with writer := w }
  | reader {s : State} (hi : i ∈ [.brOpen, .brReadbit, .brSym, .brClose, .frameDecode, .archExtract])
      (r : Reader) : Commit i s { s with reader := r }
  | create {s : State} (hi : i ∈ [.archBegin, .archAdd, .archEnd]) (c : Create) :
      Commit i s { s with create := c }
  | reading {s : State} (hi : i = .archOpen) (r : Reading) : Commit i s { s with reading := r }
  | mem {s : State} (m : Memory) : Commit i s { s with mem := m }

/-- A command of a smaller list is one of a larger. -/
theorem mem_of_subset {i : Instr} {is js : List Instr} (hi : i ∈ is) (h : is ⊆ js := by decide) : i ∈ js :=
  h hi

/-- A sequence of commits of the command `i`. -/
abbrev Commits (i : Instr) : State → State → Prop := Relation.ReflTransGen (Commit i)

/-- What no commit changes is after a sequence of commits as it was. -/
theorem Commits.keeps {i : Instr} {s t : State} {α : Type} {f : State → α}
    (hf : ∀ a b, Commit i a b → f b = f a) (h : Commits i s t) : f t = f s := by
  induction h with
  | refl => rfl
  | tail _ hc ih => exact (hf _ _ hc).trans ih

/-- What every commit preserves holds after a sequence of commits. -/
theorem Commits.preserves {i : Instr} {s t : State} {P : State → Prop}
    (hP : ∀ a b, Commit i a b → P a → P b) (h : Commits i s t) (hs : P s) : P t := by
  induction h with
  | refl => exact hs
  | tail _ hc ih => exact hP _ _ hc ih

/-! ### The state a body leaves -/

/-- `P` holds of the state a body leaves, whether it completes or raises an error; `st` reads the state
off what the body gives. -/
inductive Leaves {α : Type} (P : State → Prop) (st : α → State) : Except Raised α → Prop
  | ok {a : α} (h : P (st a)) : Leaves P st (.ok a)
  | error {r : Raised} (h : P r.state) : Leaves P st (.error r)

section
variable {α β : Type} {P : State → Prop} {st : α → State} {st' : β → State}

/-- A step that commits nothing leaves the state it is raised in, or the body goes on. -/
theorem leaves_raisedIn_bind {s : State} {x : Except CmdError β} {f : β → Except Raised α} (hs : P s)
    (hf : ∀ b, x = .ok b → Leaves P st (f b)) : Leaves P st (raisedIn s x >>= f) := by
  cases x with
  | error e => exact .error hs
  | ok b => exact hf b rfl

/-- The last step of a body, where it commits nothing itself but gives a state. -/
theorem leaves_raisedIn {s : State} {x : Except CmdError α} (hs : P s)
    (hx : ∀ a, x = .ok a → P (st a)) : Leaves P st (raisedIn s x) := by
  cases x with
  | error e => exact .error hs
  | ok a => exact .ok (hx a rfl)

/-- A step that commits, and the rest of the body after it. -/
theorem Leaves.bind {x : Except Raised β} {f : β → Except Raised α} (hx : Leaves P st' x)
    (hf : ∀ b, P (st' b) → Leaves P st (f b)) : Leaves P st (x >>= f) := by
  cases hx with
  | error h => exact .error h
  | ok h => exact hf _ h

end

/-! ### The tree and canonical commands -/

theorem freqLoad_commits (s : State) : Leaves (Commits .freqLoad s) Done.state (freqLoad s) :=
  leaves_raisedIn_bind .refl fun _ _ => leaves_raisedIn_bind .refl fun _ _ =>
    .ok (.single (.freq (by decide) _))

theorem treeBuild_commits (s : State) : Leaves (Commits .treeBuild s) Done.state (treeBuild s) :=
  leaves_raisedIn_bind .refl fun _ ht => .ok (.single (.tree (by decide) ht))

theorem treeLengths_commits (s : State) : Leaves (Commits .treeLengths s) Done.state (treeLengths s) :=
  leaves_raisedIn_bind .refl fun _ _ => .ok (.single (.len (by decide) _))

theorem canonAssign_commits (s : State) : Leaves (Commits .canonAssign s) Done.state (canonAssign s) :=
  leaves_raisedIn_bind .refl fun _ hc => .ok (.single (.canon (by decide) hc))

/-! ### The bit-stream commands -/

/-- A new writer and new memory are two commits. -/
theorem commits_writer_mem {i : Instr} (s : State) (w : Writer) (m : Memory)
    (hi : i ∈ [.bwOpen, .bwWrite, .bwSym, .bwFlush, .frameEncode, .archAdd]) :
    Commits i s { s with writer := w, mem := m } :=
  .tail (.single (.writer hi w)) (.mem m)

theorem bwOpen_commits (s : State) : Leaves (Commits .bwOpen s) Done.state (bwOpen s) :=
  leaves_raisedIn_bind .refl fun _ _ => .ok (.single (.writer (by decide) _))

theorem bwWrite_commits (s : State) : Leaves (Commits .bwWrite s) Done.state (bwWrite s) :=
  leaves_raisedIn_bind .refl fun _ _ => leaves_raisedIn_bind .refl fun _ _ =>
    .ok (commits_writer_mem s _ _ (by decide))

theorem bwSym_commits (s : State) : Leaves (Commits .bwSym s) Done.state (bwSym s) :=
  leaves_raisedIn_bind .refl fun _ _ => leaves_raisedIn_bind .refl fun _ _ =>
    leaves_raisedIn_bind .refl fun _ _ => .ok (commits_writer_mem s _ _ (by decide))

theorem bwFlush_commits (s : State) : Leaves (Commits .bwFlush s) Done.state (bwFlush s) :=
  leaves_raisedIn_bind .refl fun _ _ => .ok (commits_writer_mem s _ _ (by decide))

theorem brOpen_commits (s : State) : Leaves (Commits .brOpen s) Done.state (brOpen s) :=
  leaves_raisedIn_bind .refl fun _ _ => .ok (.single (.reader (by decide) _))

theorem brReadbit_commits (s : State) : Leaves (Commits .brReadbit s) Done.state (brReadbit s) := by
  refine leaves_raisedIn_bind .refl fun b _ => ?_
  obtain ⟨_ | _, r⟩ := b <;> exact .ok (.single (.reader (by decide) r))

theorem brSym_commits (s : State) : Leaves (Commits .brSym s) Done.state (brSym s) :=
  leaves_raisedIn_bind .refl fun _ _ => .ok (.single (.reader (by decide) _))

/-! ### The frame codec -/

/-- Only memory and the writer, which it closes, differ after header, payload and flush. -/
theorem encodeFrame_state {v : View} {s : State} {src len dst cap : Nat} {f : Encoded}
    (h : encodeFrame v s src len dst cap = .ok f) : ∃ m, f.state = closeWriter { s with mem := m } := by
  obtain ⟨m1, -, h⟩ := except_bind_eq_ok.1 h
  obtain ⟨⟨w2, m2⟩, -, h⟩ := except_bind_eq_ok.1 h
  obtain ⟨⟨w3, m3⟩, -, h⟩ := except_bind_eq_ok.1 h
  obtain ⟨m4, -, h⟩ := except_bind_eq_ok.1 h
  exact ⟨m4, by rw [← Except.ok.inj h]⟩

/-- Only memory and the reader, which it closes, differ after the payload is decoded. -/
theorem decodeFrame_state {v : View} {s : State} {h : Header} {src len dst cap : Nat} {f : Decoded}
    (hf : decodeFrame v s h src len dst cap = .ok f) : ∃ m, f.state = closeReader { s with mem := m } := by
  obtain ⟨-, -, hf⟩ := except_bind_eq_ok.1 hf
  obtain ⟨-, -, hf⟩ := except_bind_eq_ok.1 hf
  obtain ⟨⟨r, m⟩, -, hf⟩ := except_bind_eq_ok.1 hf
  exact ⟨m, by rw [← Except.ok.inj hf]⟩

section
variable {i : Instr} (s : State)

/-- The encoder's tables: the tree and the lengths it gives, or the zero lengths of an empty source. -/
theorem encodeLengths_commits (hi : i ∈ [.frameEncode, .archAdd]) (len : Nat) :
    Leaves (Commits i s) id (encodeLengths s len) := by
  have hlen : i ∈ [.treeLengths, .frameEncode, .frameDecode, .archAdd, .archExtract] := mem_of_subset hi
  have htree : i ∈ [.treeBuild, .frameEncode, .archAdd] := mem_of_subset hi
  unfold encodeLengths
  split
  · exact .ok (.single (.len hlen _))
  · refine leaves_raisedIn_bind .refl fun t ht => ?_
    have hs : Commits i s (withTree s t) := .single (.tree htree ht)
    exact leaves_raisedIn_bind hs fun _ _ => .ok (hs.tail (.len hlen _))

theorem encodeTables_commits (hi : i ∈ [.frameEncode, .archAdd]) (len : Nat) :
    Leaves (Commits i s) id (encodeTables s len) := by
  have hcanon : i ∈ [.canonAssign, .frameEncode, .frameDecode, .archAdd, .archExtract] := mem_of_subset hi
  exact (encodeLengths_commits s hi len).bind fun _ h1 =>
    leaves_raisedIn_bind h1 fun _ hc => .ok (h1.tail (.canon hcanon hc))

theorem frameEncodeBody_commits (hi : i ∈ [.frameEncode, .archAdd]) (v : View) (src len dst cap : Nat) :
    Leaves (Commits i s) Encoded.state (frameEncodeBody v s src len dst cap) := by
  have hwriter : i ∈ [.bwOpen, .bwWrite, .bwSym, .bwFlush, .frameEncode, .archAdd] := mem_of_subset hi
  refine leaves_raisedIn_bind .refl fun _ _ => (encodeTables_commits s hi len).bind fun s1 h1 => ?_
  refine leaves_raisedIn h1 fun f hf => ?_
  obtain ⟨m, hm⟩ := encodeFrame_state hf
  rw [hm]
  exact (h1.tail (.mem m)).tail (.writer hwriter _)

theorem frameDecodeBody_commits (hi : i ∈ [.frameDecode, .archExtract]) (v : View)
    (src len dst cap : Nat) (expected : Option (Nat × Nat)) :
    Leaves (Commits i s) Decoded.state (frameDecodeBody v s src len dst cap expected) := by
  have hlen : i ∈ [.treeLengths, .frameEncode, .frameDecode, .archAdd, .archExtract] := mem_of_subset hi
  have hcanon : i ∈ [.canonAssign, .frameEncode, .frameDecode, .archAdd, .archExtract] := mem_of_subset hi
  have hreader : i ∈ [.brOpen, .brReadbit, .brSym, .brClose, .frameDecode, .archExtract] := mem_of_subset hi
  refine leaves_raisedIn_bind .refl fun h _ => leaves_raisedIn_bind .refl fun _ _ => ?_
  have h1 : Commits i s (withLengths s h.lengths) := .single (.len hlen _)
  refine leaves_raisedIn_bind h1 fun c hc => ?_
  have h2 : Commits i s (withCanon (withLengths s h.lengths) c) := h1.tail (.canon hcanon hc)
  refine leaves_raisedIn h2 fun f hf => ?_
  obtain ⟨m, hm⟩ := decodeFrame_state hf
  rw [hm]
  exact (h2.tail (.mem m)).tail (.reader hreader _)

end

theorem frameEncode_commits (s : State) : Leaves (Commits .frameEncode s) Done.state (frameEncode s) :=
  (frameEncodeBody_commits s (by decide) _ _ _ _ _).bind fun _ h => .ok h

theorem frameDecode_commits (s : State) : Leaves (Commits .frameDecode s) Done.state (frameDecode s) :=
  (frameDecodeBody_commits s (by decide) _ _ _ _ _ _).bind fun _ h => .ok h

/-! ### The archive commands -/

theorem archBegin_commits (s : State) : Leaves (Commits .archBegin s) Done.state (archBegin s) := by
  have h0 : Commits .archBegin s (abandonCreate s) := .single (.create (by decide) _)
  exact leaves_raisedIn_bind h0 fun m _ => .ok ((h0.tail (.mem m)).tail (.create (by decide) _))

theorem archAdd_commits (s : State) : Leaves (Commits .archAdd s) Done.state (archAdd s) :=
  leaves_raisedIn_bind .refl fun _ _ => (frameEncodeBody_commits s (by decide) _ _ _ _ _).bind
    fun _ h => .ok (h.tail (.create (by decide) _))

theorem archEnd_commits (s : State) : Leaves (Commits .archEnd s) Done.state (archEnd s) :=
  leaves_raisedIn_bind .refl fun _ _ => leaves_raisedIn_bind .refl fun m _ =>
    .ok (.tail (.single (.mem m)) (.create (by decide) _))

theorem archOpen_commits (s : State) : Leaves (Commits .archOpen s) Done.state (archOpen s) :=
  leaves_raisedIn_bind (.single (.reading rfl _)) fun _ _ => .ok (.single (.reading rfl _))

theorem archEntry_commits (s : State) : Leaves (Commits .archEntry s) Done.state (archEntry s) :=
  leaves_raisedIn_bind .refl fun _ _ => leaves_raisedIn_bind .refl fun _ _ => .ok .refl

theorem archFind_commits (s : State) : Leaves (Commits .archFind s) Done.state (archFind s) :=
  leaves_raisedIn_bind .refl fun _ _ => .ok .refl

theorem archExtract_commits (s : State) : Leaves (Commits .archExtract s) Done.state (archExtract s) :=
  leaves_raisedIn_bind .refl fun _ _ => (frameDecodeBody_commits s (by decide) _ _ _ _ _ _).bind
    fun _ h => .ok h

/-! ### Every command -/

/-- The body of every command makes commits of its own kinds only. -/
theorem bodyOf_commits (i : Instr) (s : State) : Leaves (Commits i s) Done.state (bodyOf i s) := by
  cases i with
  | nop => exact .ok .refl
  | freqClear => exact .ok (.single (.freq (by decide) _))
  | freqLoad => exact freqLoad_commits s
  | treeBuild => exact treeBuild_commits s
  | treeLengths => exact treeLengths_commits s
  | canonAssign => exact canonAssign_commits s
  | bwOpen => exact bwOpen_commits s
  | bwWrite => exact bwWrite_commits s
  | bwSym => exact bwSym_commits s
  | bwFlush => exact bwFlush_commits s
  | brOpen => exact brOpen_commits s
  | brReadbit => exact brReadbit_commits s
  | brSym => exact brSym_commits s
  | brClose => exact .ok (.single (.reader (by decide) _))
  | frameEncode => exact frameEncode_commits s
  | frameDecode => exact frameDecode_commits s
  | archBegin => exact archBegin_commits s
  | archAdd => exact archAdd_commits s
  | archEnd => exact archEnd_commits s
  | archOpen => exact archOpen_commits s
  | archEntry => exact archEntry_commits s
  | archFind => exact archFind_commits s
  | archExtract => exact archExtract_commits s

/-- What a failure closes and counts are commits of the failed command. -/
theorem failureEffects_commits (i : Instr) (s : State) : Commits i s (failureEffects i s) := by
  cases i with
  | bwOpen | bwWrite | bwSym | bwFlush | frameEncode => exact .single (.writer (by decide) _)
  | brOpen | brReadbit | brSym | brClose | frameDecode | archExtract =>
    exact .single (.reader (by decide) _)
  | archAdd => exact .tail (.single (.writer (by decide) _)) (.create (by decide) _)
  | archEnd => exact .single (.create (by decide) _)
  | _ => exact .refl

/-- The state a command ends in: its commits, and then a completion or a failed completion. -/
theorem exec_commits {i : Instr} {s t : State} (h : exec i s = .next t) :
    (∃ d, Commits i s d.state ∧ t = completed i s d) ∨ ∃ u e, Commits i s u ∧ t = u.deliver e := by
  have hb := bodyOf_commits i s
  rw [exec_eq_runCommand] at h
  obtain ⟨-, rfl⟩ | ⟨-, d, hd, rfl⟩ | ⟨-, r, hr, rfl⟩ := runCommand_cases h
  · exact .inr ⟨s, _, .refl, rfl⟩
  · rw [hd] at hb
    obtain ⟨hc⟩ := hb
    exact .inl ⟨d, hc, rfl⟩
  · rw [hr] at hb
    obtain _ | ⟨hc⟩ := hb
    exact .inr ⟨_, r.error, (hc.trans (failureEffects_commits i r.state)).tail (.mem _), rfl⟩

/-- What neither a commit of the command nor its completion changes is after the command as it was. -/
theorem exec_keeps {i : Instr} {s t : State} {α : Type} (f : State → α)
    (hcommit : ∀ a b, Commit i a b → f b = f a) (h : exec i s = .next t)
    (hcompleted : ∀ d, f (completed i s d) = f d.state := by intros; rfl)
    (hdeliver : ∀ u e, f (u.deliver e) = f u := by intros; rfl) : f t = f s := by
  obtain ⟨d, hc, rfl⟩ | ⟨u, e, hc, rfl⟩ := exec_commits h
  · exact (hcompleted d).trans (hc.keeps hcommit)
  · exact (hdeliver u e).trans (hc.keeps hcommit)

/-! ### What a commit leaves unchanged -/

/-- What belongs to the host: ARG, the latch, IRQ_EN, OVERRUN, the parameters, the inputs, the answers and
the reset input (10_state.md R29, R47, R49; 40_host_interface.md R150). -/
def hostSide (s : State) :=
  (s.arg, s.latch, s.irqEn, s.overrun, s.params, s.inputs, s.responses, s.resetHeld)

/-- The error report: ERR, ERRCODE, ERRINFO (10_state.md R25, R26). -/
def errorReport (s : State) := (s.err, s.errcode, s.errinfo)

section
variable {i : Instr} {s t : State} (h : Commit i s t)
include h

theorem Commit.hostSide_eq : hostSide t = hostSide s := by cases h <;> rfl

theorem Commit.errorReport_eq : errorReport t = errorReport s := by cases h <;> rfl

theorem Commit.freq_eq (hi : i ∉ [.freqClear, .freqLoad]) : t.freq = s.freq := by
  cases h with
  | freq hw => exact absurd hw hi
  | _ => rfl

theorem Commit.tree_eq (hi : i ∉ [.treeBuild, .frameEncode, .archAdd]) : t.tree = s.tree := by
  cases h with
  | tree hw => exact absurd hw hi
  | _ => rfl

theorem Commit.treeValid_eq (hi : i ∉ [.freqClear, .freqLoad, .treeBuild, .frameEncode, .archAdd]) :
    t.treeValid = s.treeValid := by
  cases h with
  | freq hw => exact absurd (mem_of_subset hw) hi
  | tree hw => exact absurd (mem_of_subset hw) hi
  | _ => rfl

theorem Commit.len_eq (hi : i ∉ [.treeLengths, .frameEncode, .frameDecode, .archAdd, .archExtract]) :
    t.len = s.len := by
  cases h with
  | len hw => exact absurd hw hi
  | _ => rfl

theorem Commit.canon_eq (hi : i ∉ [.canonAssign, .frameEncode, .frameDecode, .archAdd, .archExtract]) :
    t.canon = s.canon := by
  cases h with
  | canon hw => exact absurd hw hi
  | _ => rfl

theorem Commit.canonValid_eq
    (hi : i ∉ [.treeLengths, .canonAssign, .frameEncode, .frameDecode, .archAdd, .archExtract]) :
    t.canonValid = s.canonValid := by
  cases h with
  | len hw => exact absurd (mem_of_subset hw) hi
  | canon hw => exact absurd (mem_of_subset hw) hi
  | _ => rfl

theorem Commit.writer_eq (hi : i ∉ [.bwOpen, .bwWrite, .bwSym, .bwFlush, .frameEncode, .archAdd]) :
    t.writer = s.writer := by
  cases h with
  | writer hw => exact absurd hw hi
  | _ => rfl

theorem Commit.reader_eq (hi : i ∉ [.brOpen, .brReadbit, .brSym, .brClose, .frameDecode, .archExtract]) :
    t.reader = s.reader := by
  cases h with
  | reader hw => exact absurd hw hi
  | _ => rfl

theorem Commit.create_eq (hi : i ∉ [.archBegin, .archAdd, .archEnd]) : t.create = s.create := by
  cases h with
  | create hw => exact absurd hw hi
  | _ => rfl

theorem Commit.reading_eq (hi : i ≠ .archOpen) : t.reading = s.reading := by
  cases h with
  | reading hw => exact absurd hw hi
  | _ => rfl

/-- A commit to FREQ clears TREE_VALID, and the arena is committed only as built from FREQ. -/
theorem Commit.treeCurrent (hs : TreeCurrent s) : TreeCurrent t := by
  cases h with
  | freq => exact nofun
  | tree _ ht => exact fun _ => ht
  | _ => exact hs

/-- A commit to LEN clears CANON_VALID, and the canonical tables are committed only as derived from LEN. -/
theorem Commit.canonCurrent (hs : CanonCurrent s) : CanonCurrent t := by
  cases h with
  | len => exact nofun
  | canon _ hc => exact fun _ => hc
  | _ => exact hs

end

/-! ### Every step -/

/-- Only memory, the platform and the host's side of the machine differ, and the model's own fields. -/
def EngineKept (s t : State) : Prop :=
  t = { s with
    mem := t.mem, params := t.params, resetHeld := t.resetHeld, inputs := t.inputs
    responses := t.responses, delay := t.delay, raced := t.raced, draws := t.draws }

theorem mmioRead_engineKept (s : State) (bytes addr : Nat) : EngineKept s (mmioRead s bytes addr) := by
  unfold mmioRead
  split
  · rfl
  split
  · rfl
  split
  · rfl
  next r _ => cases readsUnspecified s r <;> rfl

/-- A register write is refused, or does what the accessed register says. -/
theorem mmioWrite_cases (s : State) (bytes addr : Nat) (v : Word) :
    (∃ r, mmioWrite s bytes addr v = (writeReg s r v).respond .accepted) ∨
    EngineKept s (mmioWrite s bytes addr v) := by
  unfold mmioWrite
  split
  · exact .inr rfl
  split
  · exact .inr rfl
  split
  · exact .inr rfl
  next r _ => exact .inl ⟨r, rfl⟩

theorem hostMemRead_engineKept (s : State) (a : Nat) : EngineKept s (hostMemRead s a) := by
  unfold hostMemRead
  split <;> rfl

theorem hostMemWrite_engineKept (s : State) (a : Nat) (b : Byte) : EngineKept s (hostMemWrite s a b) := by
  unfold hostMemWrite
  split <;> rfl

/-- Everything an input can do to the engine: a register write, the reset input, or nothing. -/
theorem hostAct_cases {s t : State} {op : HostOp} (h : hostAct s op = .next t) :
    (∃ r v, t = (writeReg s r v).respond .accepted) ∨ t = s.hardReset ∨ EngineKept s t := by
  cases op with
  | mmioRead bytes addr =>
    obtain rfl := Host.Outcome.next.inj h
    exact .inr (.inr (mmioRead_engineKept s bytes addr))
  | mmioWrite bytes addr v =>
    obtain rfl := Host.Outcome.next.inj h
    obtain ⟨r, hr⟩ | hk := mmioWrite_cases s bytes addr v
    · exact .inl ⟨r, v, hr⟩
    · exact .inr (.inr hk)
  | memRead a =>
    simp only [hostAct] at h
    split at h
    · obtain rfl := Host.Outcome.next.inj h
      exact .inr (.inr (hostMemRead_engineKept s a))
    · contradiction
  | memWrite a b =>
    simp only [hostAct] at h
    split at h
    · obtain rfl := Host.Outcome.next.inj h
      exact .inr (.inr (hostMemWrite_engineKept s a b))
    · contradiction
  | assertReset =>
    obtain rfl := Host.Outcome.next.inj h
    exact .inr (.inl rfl)
  | wait | setAdmit | releaseReset =>
    obtain rfl := Host.Outcome.next.inj h
    exact .inr (.inr rfl)

/-- A property of the engine that commands, failures, register writes and the reset input keep is kept by
every step. -/
theorem step_preserves {P : State → Prop}
    (hexec : ∀ i s t, P s → exec i s = .next t → P t) (hdeliver : ∀ s e, P s → P (s.deliver e))
    (hwrite : ∀ s r v, P s → P (writeReg s r v)) (hreset : ∀ s, P s → P s.hardReset)
    (hkept : ∀ s t, EngineKept s t → P s → P t) {s t : State} (hs : P s) (h : step s = .next t) : P t := by
  obtain ⟨-, i, -, hstep⟩ | ⟨-, -, hstep⟩ | ⟨-, -, hstep⟩ | ⟨-, op, rest, -, hstep⟩ := step_cases s <;>
    rw [hstep] at h
  · exact hexec i s t hs h
  · exact Host.Outcome.next.inj h ▸ hdeliver s _ hs
  · exact Host.Outcome.next.inj h ▸ hs
  · have hs' : P (s.takeInput rest) := hkept _ _ rfl hs
    obtain ⟨r, v, rfl⟩ | rfl | hk := hostAct_cases h
    · exact hkept _ _ rfl (hwrite _ r v hs')
    · exact hreset _ hs'
    · exact hkept _ _ hk hs'

/-! ### STATUS stays consistent -/

/-- A write of STATUS clears exactly the flags written as 1, and the report with ERR (10_state.md R25). -/
theorem writeStatus_eq (s : State) (v : Word) : writeStatus s v =
    { s with
      done := s.done && !v.getLsbD 1
      err := s.err && !v.getLsbD 2
      errcode := if v.getLsbD 2 then 0 else s.errcode
      errinfo := if v.getLsbD 2 then 0 else s.errinfo
      overrun := s.overrun && !v.getLsbD 3 } := by
  unfold writeStatus
  cases v.getLsbD 1 <;> cases v.getLsbD 2 <;> cases v.getLsbD 3 <;> simp [State.clearErr]

theorem statusConsistent_reset : StatusConsistent State.reset := ⟨nofun, fun _ => ⟨rfl, rfl⟩, nofun⟩

theorem statusConsistent_deliver (s : State) (e : CmdError) : StatusConsistent (s.deliver e) :=
  ⟨nofun, nofun, fun _ => ⟨e.code, rfl⟩⟩

theorem statusConsistent_engineKept {s t : State} (hk : EngineKept s t) (hs : StatusConsistent s) :
    StatusConsistent t := by
  rw [hk]
  exact hs

/-- A command leaves BUSY at 0, with the report as it was or a new one. -/
theorem statusConsistent_exec {i : Instr} {s t : State} (hs : StatusConsistent s)
    (h : exec i s = .next t) : StatusConsistent t := by
  obtain ⟨d, hc, rfl⟩ | ⟨u, e, -, rfl⟩ := exec_commits h
  · have hreport : errorReport d.state = errorReport s := hc.keeps fun _ _ hab => hab.errorReport_eq
    simp only [errorReport, Prod.mk.injEq] at hreport
    obtain ⟨herr, hcode, hinfo⟩ := hreport
    obtain ⟨-, hnone, hsome⟩ := hs
    refine ⟨nofun, ?_, ?_⟩ <;> simpa [herr, hcode, hinfo]
  · exact statusConsistent_deliver u e

theorem statusConsistent_writeStatus {s : State} (v : Word) (hs : StatusConsistent s) :
    StatusConsistent (writeStatus s v) := by
  obtain ⟨hbusy, hnone, hsome⟩ := hs
  rw [writeStatus_eq]
  refine ⟨fun hb => ?_, fun he => ?_, fun he => ?_⟩
  · simp [hbusy hb]
  · cases hv : v.getLsbD 2 <;> simp_all
  · cases hv : v.getLsbD 2 <;> simp_all

theorem statusConsistent_writeReg {s : State} (r : Reg) (v : Word) (hs : StatusConsistent s) :
    StatusConsistent (writeReg s r v) := by
  cases r with
  | ctrl =>
    simp only [writeReg, writeCtrl]
    split
    · exact statusConsistent_reset
    · exact hs
  | cmd =>
    simp only [writeReg]
    split
    · exact hs
    · exact ⟨fun _ => ⟨rfl, rfl⟩, fun _ => ⟨rfl, rfl⟩, nofun⟩
  | status => exact statusConsistent_writeStatus v hs
  | freq n | len n =>
    simp only [writeReg]
    split <;> exact hs
  | _ => exact hs

/-! ### TREE_VALID and CANON_VALID stay truthful -/

/-- TREE_VALID and CANON_VALID are truthful. -/
abbrev TablesCurrent (s : State) : Prop := TreeCurrent s ∧ CanonCurrent s

theorem tablesCurrent_reset : TablesCurrent State.reset := ⟨nofun, nofun⟩

theorem tablesCurrent_engineKept {s t : State} (hk : EngineKept s t) (hs : TablesCurrent s) :
    TablesCurrent t := by
  rw [hk]
  exact hs

theorem tablesCurrent_exec {i : Instr} {s t : State} (hs : TablesCurrent s) (h : exec i s = .next t) :
    TablesCurrent t := by
  have hcommit : ∀ a b, Commit i a b → TablesCurrent a → TablesCurrent b :=
    fun _ _ hc ⟨htree, hcanon⟩ => ⟨hc.treeCurrent htree, hc.canonCurrent hcanon⟩
  obtain ⟨d, hc, rfl⟩ | ⟨u, e, hc, rfl⟩ := exec_commits h
  · have hd : TablesCurrent d.state := hc.preserves hcommit hs
    exact hd
  · have hu : TablesCurrent u := hc.preserves hcommit hs
    exact hu

/-- A write of FREQ clears TREE_VALID and a write of LEN clears CANON_VALID; no other write touches a table,
but for the soft reset. -/
theorem tablesCurrent_writeReg {s : State} (r : Reg) (v : Word) (hs : TablesCurrent s) :
    TablesCurrent (writeReg s r v) := by
  cases r with
  | ctrl =>
    simp only [writeReg, writeCtrl]
    split
    · exact tablesCurrent_reset
    · exact hs
  | cmd =>
    simp only [writeReg]
    split <;> exact hs
  | status => rw [writeReg, writeStatus_eq]; exact hs
  | freq n =>
    simp only [writeReg]
    split
    · exact hs
    · exact ⟨nofun, hs.2⟩
  | len n =>
    simp only [writeReg]
    split
    · exact hs
    · exact ⟨hs.1, nofun⟩
  | _ => exact hs

/-! ### The register map -/

/-- An entry of a window is found at its offset, and at no other. -/
theorem windowIndex_eq_some {off base n : Nat} (hb : base % 8 = 0) {k : Fin n} :
    windowIndex off base n = some k ↔ off = base + 8 * k.val := by
  unfold windowIndex
  split
  · simp only [Option.some.injEq, Fin.ext_iff]
    omega
  · simp only [reduceCtorEq, false_iff]
    omega

/-- An offset outside a window is none of its entries. -/
theorem windowIndex_eq_none {off base n : Nat} (h : off < base ∨ base + 8 * n ≤ off) :
    windowIndex off base n = none := by
  unfold windowIndex
  rw [dif_neg]
  omega

theorem windowIndex_entry {base n : Nat} (hb : base % 8 = 0) (k : Fin n) :
    windowIndex (base + 8 * k.val) base n = some k :=
  (windowIndex_eq_some hb).2 rfl

/-- A window of the map gives the register whose offset it is, or leaves the offset to the next window. -/
theorem window_or_cases {off base n : Nat} {f : Fin n → Reg} {rest : Option Reg} {r : Reg}
    (hb : base % 8 = 0) (hf : ∀ k, offsetOf (f k) = base + 8 * k.val)
    (h : ((windowIndex off base n).map f).or rest = some r) : off = offsetOf r ∨ rest = some r := by
  obtain h | ⟨-, h⟩ := Option.or_eq_some_iff.1 h
  · obtain ⟨k, hk, rfl⟩ := Option.map_eq_some_iff.1 h
    exact .inl ((hf k).symm ▸ (windowIndex_eq_some hb).1 hk)
  · exact .inr h

theorem regAt_offsetOf (r : Reg) : regAt (offsetOf r) = some r := by
  cases r with
  | arg n | res n | freq n | len n | code n | nodeWeight n | nodeLink n | rowBase n | rowInfo n
  | sorted n =>
    simp (disch := omega) only [regAt, offsetOf, if_neg, windowIndex_eq_none, windowIndex_entry,
      Option.map_none, Option.map_some, Option.none_or, Option.some_or]
  | _ => rfl

theorem offsetOf_of_regAt {off : Nat} {r : Reg} (h : regAt off = some r) : off = offsetOf r := by
  unfold regAt at h
  iterate 14
    obtain ⟨ho, hr⟩ | ⟨-, h⟩ := ite_eq_iff.1 h
    · exact Option.some.inj hr ▸ ho
  iterate 9
    obtain ho | h := window_or_cases rfl (fun _ => rfl) h
    · exact ho
  obtain ⟨k, hk, rfl⟩ := Option.map_eq_some_iff.1 h
  exact (windowIndex_eq_some rfl).1 hk

/-! ### Reset -/

/-- Every table, unit and context is zero after reset, so every register but ID reads 0 (10_state.md R50). -/
theorem regValue_reset (r : Reg) (hr : r ≠ .id) : regValue State.reset r = 0 := by
  cases r with
  | id => exact absurd rfl hr
  | ctrl | cmd | errinfo | status => rfl
  | canonInfo | treeInfo | wPos | wAcc | rPos | rBuf | aEnd | aCount | aRcount => rfl
  | arg n | res n | freq n | len n => simp [regValue, State.reset]
  | code n | rowBase n | rowInfo n | sorted n => simp [regValue, State.reset, Canon.zero, whenTrue]
  | nodeWeight n | nodeLink n => simp [regValue, State.reset, Tree.zero, whenTrue]

theorem unitsSound_reset : UnitsSound State.reset := by
  refine ⟨⟨fun _ => rfl, nofun⟩, ⟨fun _ => rfl, nofun⟩, ⟨fun _ => rfl, nofun, ?_⟩, fun _ => rfl, nofun⟩
  decide

/-! ### The obligations -/

/-- Settles O16: no commit and no completion touches the host's side. -/
theorem commandsKeepTheHostSide : Obligations.CommandsKeepTheHostSide := by
  intro i s t h
  have hside : hostSide t = hostSide s :=
    exec_keeps hostSide (fun _ _ hc => hc.hostSide_eq) h
  simpa only [hostSide, Prod.mk.injEq] using hside

/-- Settles O17: a table, unit or context is changed by commits to it only, and a commit to it names the
commands that make it. -/
theorem commandsWriteOnlyTheirUnits : Obligations.CommandsWriteOnlyTheirUnits := by
  intro i s t h
  exact ⟨
    fun hi => exec_keeps (·.freq) (fun _ _ hc => hc.freq_eq hi) h,
    fun hi => exec_keeps (·.tree) (fun _ _ hc => hc.tree_eq hi) h,
    fun hi => exec_keeps (·.treeValid) (fun _ _ hc => hc.treeValid_eq hi) h,
    fun hi => exec_keeps (·.len) (fun _ _ hc => hc.len_eq hi) h,
    fun hi => exec_keeps (·.canon) (fun _ _ hc => hc.canon_eq hi) h,
    fun hi => exec_keeps (·.canonValid) (fun _ _ hc => hc.canonValid_eq hi) h,
    fun hi => exec_keeps (·.writer) (fun _ _ hc => hc.writer_eq hi) h,
    fun hi => exec_keeps (·.reader) (fun _ _ hc => hc.reader_eq hi) h,
    fun hi => exec_keeps (·.create) (fun _ _ hc => hc.create_eq hi) h,
    fun hi => exec_keeps (·.reading) (fun _ _ hc => hc.reading_eq hi) h⟩

/-- Settles O58: by what a step can do to the engine, each case keeping STATUS consistent. -/
theorem stepKeepsStatusConsistent : Obligations.StepKeepsStatusConsistent := by
  intro s t hs h
  exact step_preserves (fun _ _ _ => statusConsistent_exec) (fun s e _ => statusConsistent_deliver s e)
    (fun _ => statusConsistent_writeReg) (fun _ _ => statusConsistent_reset)
    (fun _ _ => statusConsistent_engineKept) hs h

/-- Settles O59: by what a step can do to the engine, each case keeping both tables current. -/
theorem stepKeepsTablesCurrent : Obligations.StepKeepsTablesCurrent := by
  intro s t htree hcanon h
  exact step_preserves (P := TablesCurrent) (fun _ _ _ => tablesCurrent_exec) (fun _ _ hs => hs)
    (fun _ => tablesCurrent_writeReg) (fun _ _ => tablesCurrent_reset)
    (fun _ _ => tablesCurrent_engineKept) ⟨htree, hcanon⟩ h

/-- Settles O2: the map gives every register back from its offset, and nothing else. -/
theorem registerMapIsExact : Obligations.RegisterMapIsExact := by
  intro off r
  constructor
  · exact offsetOf_of_regAt
  · rintro rfl
    exact regAt_offsetOf r

/-- Settles O1: every register but ID reads 0 in the reset state, and the hidden state is the zero state. -/
theorem resetReadsZeroButForId : Obligations.ResetReadsZeroButForId :=
  ⟨by decide, fun r hr => regValue_reset r hr, rfl, rfl, rfl, rfl, rfl, rfl, rfl, rfl, rfl, rfl⟩

/-- Settles O56: the reset state by each invariant's own lemma. -/
theorem resetMeetsTheInvariants : Obligations.ResetMeetsTheInvariants :=
  ⟨by decide, statusConsistent_reset, tablesCurrent_reset.1, tablesCurrent_reset.2, unitsSound_reset,
    by decide⟩

end Sys2Proof.Machine

namespace Sys2Proof.Machine

/-! PROOFS. System memory: the bytes a command stores, the canonical form, the host's accesses, and the
range check before any access. -/

/-! ### What a completed step gives -/

/-- `P` holds of what a step gives, if it completes. -/
def Yields {ε α : Type} (P : α → Prop) (x : Except ε α) : Prop := ∀ a, x = .ok a → P a

section
variable {ε α β : Type} {P : α → Prop} {Q : β → Prop}

theorem yields_ok {a : α} (h : P a) : Yields P (.ok a : Except ε α) :=
  fun _ ha => Except.ok.inj ha ▸ h

/-- The rest of a sequence starts from what the first step gave. -/
theorem yields_bind {x : Except ε β} {f : β → Except ε α} (hf : ∀ b, x = .ok b → Yields P (f b)) :
    Yields P (x >>= f) := fun a ha => by
  obtain ⟨b, hb, hfb⟩ := except_bind_eq_ok.1 ha
  exact hf b hb a hfb

/-- A sequence whose first step is known by what it gives. -/
theorem Yields.bind {x : Except ε β} {f : β → Except ε α} (hx : Yields Q x)
    (hf : ∀ b, Q b → Yields P (f b)) : Yields P (x >>= f) :=
  yields_bind fun b hb => hf b (hx b hb)

theorem Yields.imp {Q : α → Prop} {x : Except ε α} (hx : Yields P x) (h : ∀ a, P a → Q a) : Yields Q x :=
  fun a ha => h a (hx a ha)

theorem Yields.raisedIn {s : State} {x : Except CmdError α} (hx : Yields P x) : Yields P (raisedIn s x) :=
  fun a ha => hx a (raisedIn_eq_ok.1 ha)

theorem Yields.havingStored {n : Nat} {x : Except CmdError α} (hx : Yields P x) :
    Yields P (havingStored n x) :=
  fun a ha => hx a (havingStored_eq_ok.1 ha)

theorem Yields.inFrame {x : Except CmdError α} (hx : Yields P x) : Yields P (inFrame x) := by
  cases x with
  | ok a => exact hx
  | error e => exact nofun

end

/-! ### Commands that store nothing -/

/-- A body that leaves memory as it was and reports no address written. -/
abbrev StoresNothing (s : State) (x : Except Raised Done) : Prop :=
  Yields (fun d => d.state.mem = s.mem ∧ d.written = ⟨0, 0⟩) x

theorem brReadbit_storesNothing (s : State) : StoresNothing s (brReadbit s) := by
  refine yields_bind fun b _ => ?_
  obtain ⟨_ | _, r⟩ := b <;> exact yields_ok ⟨rfl, rfl⟩

/-- "Every other command touches no system memory" (20_memory.md R72): the body of a command without a
write range stores nothing. -/
theorem bodyOf_storesNothing {i : Instr} (s : State) (hi : writeRanges i s = []) :
    StoresNothing s (bodyOf i s) := by
  cases i with
  | bwWrite | bwSym | bwFlush | frameEncode | frameDecode | archBegin | archAdd | archEnd | archExtract =>
    exact absurd hi (List.cons_ne_nil _ _)
  | nop | freqClear | brClose => exact yields_ok ⟨rfl, rfl⟩
  | treeBuild | treeLengths | canonAssign | bwOpen | brOpen | brSym | archOpen | archFind =>
    exact yields_bind fun _ _ => yields_ok ⟨rfl, rfl⟩
  | freqLoad | archEntry => exact yields_bind fun _ _ => yields_bind fun _ _ => yields_ok ⟨rfl, rfl⟩
  | brReadbit => exact brReadbit_storesNothing s

/-! ### Memory stays canonical -/

/-- A flush puts the padded partial byte, if there is one, and then writes the chunk buffer
(43_bitstream.md R228). -/
theorem flushWriter_eq (p : Config.Params) (w : Writer) (m : Memory) :
    flushWriter p w m =
      (if 0 < w.wnacc.toNat then putByte p w m (BitVec.ofNat 8 (w.wacc.toNat * 2 ^ padBits w))
        else .ok (w, m)) >>= fun x => chunkWrite p x.1 x.2 := by
  unfold flushWriter
  split <;> rfl

theorem flushWriter_wf {p : Config.Params} {w w' : Writer} {m m' : Memory} (hm : m.wf)
    (h : flushWriter p w m = .ok (w', m')) : m'.wf := by
  rw [flushWriter_eq] at h
  obtain ⟨⟨w1, m1⟩, h1, h2⟩ := except_bind_eq_ok.1 h
  refine chunkWrite_wf ?_ h2
  split at h1
  · exact putByte_wf hm h1
  · simp only [Except.ok.injEq, Prod.mk.injEq] at h1
    exact h1.2 ▸ hm

theorem memWrite_wf {p : Config.Params} {m m' : Memory} {a : Nat} {b : Byte} (hm : m.wf)
    (h : memWrite p m a b = .ok m') : m'.wf := by
  simp only [memWrite] at h
  split at h
  · exact Except.ok.inj h ▸ writeByte_wf hm a b
  · contradiction

theorem encodePayload_wf {v : View} {s : State} {src n i : Nat} {w : Writer} {m : Memory} (hm : m.wf) :
    Yields (fun x => x.2.wf) (encodePayload v s src n i w m) := by
  induction n generalizing i w m with
  | zero => exact yields_ok hm
  | succ n ih =>
    exact yields_bind fun _ _ => yields_bind fun _ _ => yields_bind fun _ h => ih (writeBits_wf hm h)

theorem encodeFrame_wf {v : View} {s : State} {src len dst cap : Nat} (hm : s.mem.wf) :
    Yields (fun f => f.state.mem.wf) (encodeFrame v s src len dst cap) := by
  refine yields_bind fun m1 h1 => ?_
  have hm1 : m1.wf := (memWriteN_spec h1).2.1 hm
  refine (encodePayload_wf hm1).inFrame.havingStored.bind fun x2 hm2 => ?_
  have hflush : Yields (fun x => x.2.wf) (flushWriter s.params x2.1 x2.2) := fun _ h => flushWriter_wf hm2 h
  refine hflush.inFrame.havingStored.bind fun x3 hm3 => yields_bind fun m4 h4 => yields_ok ?_
  exact memWrite_wf hm3 (havingStored_eq_ok.1 h4)

/-- The encoder's tables are derived before any byte is stored. -/
theorem encodeTables_mem (s : State) (len : Nat) :
    Yields (fun t => t.mem = s.mem) (encodeTables s len) := by
  have hlengths : Yields (fun t => t.mem = s.mem) (encodeLengths s len) := by
    unfold encodeLengths
    split
    · exact yields_ok rfl
    · exact yields_bind fun _ _ => yields_bind fun _ _ => yields_ok rfl
  exact hlengths.bind fun _ h => yields_bind fun _ _ => yields_ok h

theorem frameEncodeBody_wf {v : View} {s : State} {src len dst cap : Nat} (hm : s.mem.wf) :
    Yields (fun f => f.state.mem.wf) (frameEncodeBody v s src len dst cap) :=
  yields_bind fun _ _ => (encodeTables_mem s len).bind fun s1 h1 =>
    (encodeFrame_wf (s := s1) (h1 ▸ hm)).raisedIn

theorem decodePayload_wf {v : View} {p : Config.Params} {c : Canon} {dst n i : Nat} {r : Reader}
    {m : Memory} (hm : m.wf) : Yields (fun x => x.2.wf) (decodePayload v p c dst n i r m) := by
  induction n generalizing i r m with
  | zero => exact yields_ok hm
  | succ n ih => exact yields_bind fun _ _ => yields_bind fun _ h => ih (memWrite_wf hm h)

theorem frameDecodeBody_wf {v : View} {s : State} {src len dst cap : Nat}
    {expected : Option (Nat × Nat)} (hm : s.mem.wf) :
    Yields (fun f => f.state.mem.wf) (frameDecodeBody v s src len dst cap expected) :=
  yields_bind fun h _ => yields_bind fun _ _ => yields_bind fun c _ => Yields.raisedIn <|
    yields_bind fun _ _ => yields_bind fun _ _ =>
      (decodePayload_wf (m := (withCanon (withLengths s h.lengths) c).mem) hm).bind fun _ hm' => yields_ok hm'

theorem bodyOf_wf (i : Instr) {s : State} (hm : s.mem.wf) :
    Yields (fun d => d.state.mem.wf) (bodyOf i s) := by
  cases i with
  | bwWrite =>
    exact yields_bind fun _ _ => yields_bind fun _ h => yields_ok (writeBits_wf hm (raisedIn_eq_ok.1 h))
  | bwSym =>
    exact yields_bind fun _ _ => yields_bind fun _ _ => yields_bind fun _ h =>
      yields_ok (writeBits_wf hm (raisedIn_eq_ok.1 h))
  | bwFlush => exact yields_bind fun _ h => yields_ok (flushWriter_wf hm (raisedIn_eq_ok.1 h))
  | frameEncode => exact (frameEncodeBody_wf hm).bind fun _ h => yields_ok h
  | frameDecode => exact (frameDecodeBody_wf hm).bind fun _ h => yields_ok h
  | archBegin =>
    have hwrites : Yields Memory.wf (beginWrites s) :=
      yields_bind fun _ _ => yields_bind fun _ _ => yields_bind fun _ _ => fun _ h =>
        (memWriteN_spec h).2.1 hm
    exact hwrites.raisedIn.bind fun _ h => yields_ok h
  | archAdd => exact yields_bind fun _ _ => (frameEncodeBody_wf hm).bind fun _ h => yields_ok h
  | archEnd =>
    exact yields_bind fun _ h1 => yields_bind fun _ h2 => yields_ok <|
      (memWriteN_spec (raisedIn_eq_ok.1 h2)).2.1 ((memWriteN_spec (raisedIn_eq_ok.1 h1)).2.1 hm)
  | archExtract =>
    exact yields_bind fun _ _ => (frameDecodeBody_wf hm).bind fun _ h => yields_ok h
  | _ => exact (bodyOf_storesNothing s rfl).imp fun _ h => h.1 ▸ hm

theorem exec_wf {i : Instr} {s t : State} (hm : s.mem.wf) (h : exec i s = .next t) : t.mem.wf := by
  rw [exec_eq_runCommand] at h
  obtain ⟨-, rfl⟩ | ⟨-, d, hd, rfl⟩ | ⟨-, r, -, rfl⟩ := runCommand_cases h
  · exact hm
  · exact settledMem_wf (bodyOf_wf i hm d hd)
  · exact raise_mem_wf hm

/-- Of the register writes only a CTRL write, by its soft reset, changes memory. -/
theorem writeReg_mem {s : State} {r : Reg} {v : Word} (hr : r ≠ .ctrl) : (writeReg s r v).mem = s.mem := by
  cases r with
  | ctrl => exact absurd rfl hr
  | status => rw [writeReg, writeStatus_eq]
  | cmd | freq n | len n => simp only [writeReg]; split <;> rfl
  | _ => rfl

theorem writeReg_wf {s : State} (r : Reg) (v : Word) (hm : s.mem.wf) : (writeReg s r v).mem.wf := by
  by_cases hr : r = .ctrl
  · subst hr
    simp only [writeReg, writeCtrl]
    split
    · exact abandonedMem_wf hm
    · exact hm
  · rwa [writeReg_mem hr]

theorem mmioRead_mem (s : State) (bytes addr : Nat) : (mmioRead s bytes addr).mem = s.mem := by
  unfold mmioRead
  split
  · rfl
  split
  · rfl
  split <;> simp

theorem mmioWrite_wf {s : State} (bytes addr : Nat) (v : Word) (hm : s.mem.wf) :
    (mmioWrite s bytes addr v).mem.wf := by
  unfold mmioWrite
  split
  · exact hm
  split
  · exact hm
  split
  · exact hm
  next r _ => exact writeReg_wf r v hm

theorem hostMemRead_mem (s : State) (a : Nat) : (hostMemRead s a).mem = s.mem := by
  unfold hostMemRead
  split <;> simp

theorem hostMemWrite_wf {s : State} (a : Nat) (b : Byte) (hm : s.mem.wf) : (hostMemWrite s a b).mem.wf := by
  unfold hostMemWrite
  split
  · exact havoc_wf hm _ _
  · exact writeByte_wf hm a b

theorem hostAct_wf {s t : State} {op : HostOp} (hm : s.mem.wf) (h : hostAct s op = .next t) : t.mem.wf := by
  cases op with
  | mmioRead bytes addr => exact Host.Outcome.next.inj h ▸ mmioRead_mem s bytes addr ▸ hm
  | mmioWrite bytes addr v => exact Host.Outcome.next.inj h ▸ mmioWrite_wf bytes addr v hm
  | memRead a =>
    obtain ⟨-, h⟩ | ⟨-, h⟩ := ite_eq_iff.1 h
    · exact Host.Outcome.next.inj h ▸ hostMemRead_mem s a ▸ hm
    · contradiction
  | memWrite a b =>
    obtain ⟨-, h⟩ | ⟨-, h⟩ := ite_eq_iff.1 h
    · exact Host.Outcome.next.inj h ▸ hostMemWrite_wf a b hm
    · contradiction
  | assertReset => exact Host.Outcome.next.inj h ▸ interruptedMem_wf hm
  | wait | setAdmit | releaseReset => exact Host.Outcome.next.inj h ▸ hm

/-! ### The host's accesses -/

/-- A host write puts the byte, or a free byte in a running command's ranges, and touches no other. -/
theorem readByte_hostMemWrite {s : State} (hm : s.mem.wf) {a : Nat} (ha : a < addressLimit) (b : Byte)
    (x : Nat) : readByte (hostMemWrite s a b).mem x =
      if x = a then (if inRunningRanges s a then Config.freeByte s.draws a else b)
      else readByte s.mem x := by
  unfold hostMemWrite
  by_cases hx : x = a
  · subst hx
    split <;> simp [readByte_havoc hm, readByte_writeByte, ha]
  · have hout : ¬(a ≤ x ∧ x < min (a + 1) addressLimit) := by omega
    split <;> simp only [readByte_havoc hm, readByte_writeByte, hx, hout, false_and, if_false]

theorem hostMemWrite_raced (s : State) (a : Nat) (b : Byte) :
    (hostMemWrite s a b).raced = if inRunningRanges s a then a :: s.raced else s.raced := by
  unfold hostMemWrite
  split <;> rfl

theorem hostMemWrite_keeps (s : State) (a : Nat) (b : Byte) : ∃ m raced draws,
    hostMemWrite s a b = { s with mem := m, raced := raced, draws := draws } := by
  unfold hostMemWrite
  split <;> exact ⟨_, _, _, rfl⟩

/-- A host read answers the byte, or a free byte where the read is free. -/
theorem hostMemRead_eq (s : State) (a : Nat) : hostMemRead s a =
    { s with
      responses := s.responses ++
        [.byte (if hostReadsFree s a then Config.freeByte s.draws a else readByte s.mem a)]
      draws := (hostMemRead s a).draws } := by
  unfold hostMemRead
  split <;> rfl

/-! ### The range check before any access -/

/-- The error of the range check: BAD_RANGE and the index of the address argument. -/
abbrev badRangeAt (index : Nat) : CmdError := { code := .badRange, info := index }

/-- A body whose first failing check is the range check of the address argument `index`. -/
abbrev FailsBadRange {α : Type} (index : Nat) (x : Except Raised α) : Prop :=
  ∃ u, x = .error { error := badRangeAt index, state := u }

section
variable {α β : Type} {index : Nat}

theorem checkRange_passing {a n : Nat} (h : addressLimit < a + n) :
    checkRange a n index = .error (badRangeAt index) :=
  failIf_eq_error.2 ⟨decide_eq_true h, rfl⟩

theorem checkRange_within {a n : Nat} (h : a + n ≤ addressLimit) : checkRange a n index = .ok () :=
  checkRange_eq_ok.2 h

theorem failsBadRange_bind {x : Except Raised β} {f : β → Except Raised α} (h : FailsBadRange index x) :
    FailsBadRange index (x >>= f) := by
  obtain ⟨u, rfl⟩ := h
  exact ⟨u, rfl⟩

theorem failsBadRange_raisedIn {s : State} {x : Except CmdError α} (h : x = .error (badRangeAt index)) :
    FailsBadRange index (raisedIn s x) := by
  subst h
  exact ⟨s, rfl⟩

/-- A sequence of checks that begins with a range check that fails. -/
theorem checkRange_bind_passing {a n : Nat} {f : Unit → Except CmdError α} (h : addressLimit < a + n) :
    (checkRange a n index >>= f) = .error (badRangeAt index) :=
  except_bind_eq_error.2 (.inl (checkRange_passing h))

end

/-- The two range checks of the frame codec's checks and of ARCH_ADD's: the source, then the
destination. -/
theorem checkRange_bind_checkRange_passing {α : Type} {a n b k i j : Nat} {f : Unit → Except CmdError α}
    (h1 : a + n ≤ addressLimit) (h2 : addressLimit < b + k) :
    (checkRange a n i >>= fun _ => checkRange b k j >>= f) = .error (badRangeAt j) :=
  except_bind_eq_error.2 (.inr ⟨(), checkRange_within h1, checkRange_bind_passing h2⟩)

/-- A command that fails with BAD_RANGE reports it, and leaves memory as it was but for BW_OPEN. -/
theorem exec_of_failsBadRange {i : Instr} {s : State} {index : Nat} (hc : contextPresent i s = true)
    (hlt : index < addressLimit) (hb : FailsBadRange index (bodyOf i s)) :
    ∃ t, exec i s = .next t ∧ t.err = true ∧ t.errcode = 0x58 ∧ t.errinfo = BitVec.ofNat 64 index ∧
      (i ≠ .bwOpen → t.mem = s.mem) := by
  obtain ⟨u, hu⟩ := hb
  refine ⟨_, (exec_eq_runCommand i s).trans (runCommand_error hc hu), rfl, rfl, if_pos hlt, fun hi => ?_⟩
  simp [State.raise, failsUntouched, hi]

/-- The commands whose address argument 0 has its length in argument 1 check that range first. -/
theorem bodyOf_failsBadRange_first {i : Instr} {s : State}
    (hi : i ∈ [.bwOpen, .brOpen, .frameEncode, .frameDecode, .archBegin, .archAdd, .archOpen, .archFind])
    (h : addressLimit < a0 s + a1 s) : FailsBadRange 0 (bodyOf i s) := by
  cases i with
  | bwOpen | brOpen => exact failsBadRange_bind (failsBadRange_raisedIn (checkRange_passing h))
  | frameEncode | frameDecode =>
    exact failsBadRange_bind (failsBadRange_bind (failsBadRange_raisedIn (checkRange_bind_passing h)))
  | archBegin | archAdd | archOpen | archFind =>
    exact failsBadRange_bind (failsBadRange_raisedIn (checkRange_bind_passing h))
  | _ => exact absurd hi (by decide)

/-- The encoders and FRAME_DECODE check the range of arguments 2 and 3 right after that of 0 and 1. -/
theorem bodyOf_failsBadRange_second {i : Instr} {s : State} (hi : i ∈ [.frameEncode, .frameDecode, .archAdd])
    (h1 : a0 s + a1 s ≤ addressLimit) (h2 : addressLimit < a2 s + a3 s) :
    FailsBadRange 2 (bodyOf i s) := by
  cases i with
  | frameEncode | frameDecode =>
    exact failsBadRange_bind (failsBadRange_bind
      (failsBadRange_raisedIn (checkRange_bind_checkRange_passing h1 h2)))
  | archAdd => exact failsBadRange_bind (failsBadRange_raisedIn (checkRange_bind_checkRange_passing h1 h2))
  | _ => exact absurd hi (by decide)

/-! ### The bytes a step stores -/

/-- From `m` to `m'` no byte outside `[lo, hi)` changes. -/
def Stores (lo hi : Nat) (m m' : Memory) : Prop :=
  ∀ x, x < lo ∨ hi ≤ x → readByte m' x = readByte m x

theorem Stores.refl (lo hi : Nat) (m : Memory) : Stores lo hi m m := fun _ _ => rfl

theorem Stores.trans {lo hi : Nat} {m m1 m2 : Memory} (h1 : Stores lo hi m m1) (h2 : Stores lo hi m1 m2) :
    Stores lo hi m m2 := fun x hx => (h2 x hx).trans (h1 x hx)

/-- A wider range; an empty range lies in any. -/
theorem Stores.mono {lo hi lo' hi' : Nat} {m m' : Memory} (h : Stores lo hi m m')
    (hsub : hi ≤ lo ∨ (lo' ≤ lo ∧ hi ≤ hi')) : Stores lo' hi' m m' := fun x hx => h x (by omega)

/-- A range and the one after it. -/
theorem Stores.append {lo mid hi : Nat} {m m1 m2 : Memory} (h1 : Stores lo mid m m1)
    (h2 : Stores mid hi m1 m2) (hlo : lo ≤ mid) (hhi : mid ≤ hi) : Stores lo hi m m2 :=
  (h1.mono (.inr ⟨Nat.le_refl lo, hhi⟩)).trans (h2.mono (.inr ⟨hlo, Nat.le_refl hi⟩))

theorem memWriteN_stores (p : Config.Params) (m : Memory) (a : Nat) (bs : List Byte) :
    Yields (Stores a (a + bs.length) m) (memWriteN p m a bs) := fun m' h x hx => by
  rw [(memWriteN_spec h).1 x, if_neg (by omega)]

theorem memWrite_stores (p : Config.Params) (m : Memory) (a : Nat) (b : Byte) :
    Yields (Stores a (a + 1) m) (memWrite p m a b) := fun m' h x hx => by
  simp only [memWrite] at h
  split at h
  · rw [← Except.ok.inj h, readByte_writeByte, if_neg (by omega)]
  · contradiction

/-! ### The bytes the bit writer stores -/

/-- The counts of an open writer (43_bitstream.md R220): `WCFL + |CHUNK| = WPOS ≤ WCAP`. -/
structure WriterFits (w : Writer) : Prop where
  count : w.wcfl.toNat + w.chunk.length = w.wpos.toNat
  room : w.wpos.toNat ≤ w.wcap.toNat

/-- The writer `w` came to `x.1`, and memory `m` to `x.2`, by chunks stored one after the other from
WDST + WCFL on. -/
structure WriterRan (w : Writer) (m : Memory) (x : Writer × Memory) : Prop where
  fits : WriterFits x.1
  wdst : x.1.wdst = w.wdst
  wcap : x.1.wcap = w.wcap
  rises : w.wcfl.toNat ≤ x.1.wcfl.toNat
  stores : Stores w.nextStore x.1.nextStore m x.2

theorem WriterRan.refl {w : Writer} (m : Memory) (h : WriterFits w) : WriterRan w m (w, m) :=
  ⟨h, rfl, rfl, Nat.le_refl _, .refl _ _ _⟩

theorem WriterRan.nextStore_le {w : Writer} {m : Memory} {x : Writer × Memory} (h : WriterRan w m x) :
    w.nextStore ≤ x.1.nextStore := by
  rw [Writer.nextStore, Writer.nextStore, h.wdst]
  exact Nat.add_le_add_left h.rises _

theorem WriterRan.trans {w : Writer} {m : Memory} {x y : Writer × Memory} (h1 : WriterRan w m x)
    (h2 : WriterRan x.1 x.2 y) : WriterRan w m y :=
  ⟨h2.fits, h2.wdst.trans h1.wdst, h2.wcap.trans h1.wcap, h1.rises.trans h2.rises,
    h1.stores.append h2.stores h1.nextStore_le h2.nextStore_le⟩

/-- The writer never stores past WDST + WPOS. -/
theorem WriterRan.nextStore_le_wpos {w : Writer} {m : Memory} {x : Writer × Memory} (h : WriterRan w m x) :
    x.1.nextStore ≤ w.wdst.toNat + x.1.wpos.toNat := by
  rw [Writer.nextStore, h.wdst]
  exact Nat.add_le_add_left (h.fits.count ▸ Nat.le_add_right _ _) _

theorem WriterRan.wpos_le {w : Writer} {m : Memory} {x : Writer × Memory} (h : WriterRan w m x) :
    x.1.wpos.toNat ≤ w.wcap.toNat :=
  h.wcap ▸ h.fits.room

section
variable {p : Config.Params} {w : Writer} {m : Memory}

theorem chunkWrite_ran (hw : WriterFits w) : Yields (WriterRan w m) (chunkWrite p w m) := by
  refine (memWriteN_stores p m w.nextStore w.chunk).bind fun m' hm' => yields_ok ?_
  have hwcfl : (w.wcfl + BitVec.ofNat 64 w.chunk.length).toNat = w.wcfl.toNat + w.chunk.length := by
    have hcount := hw.count
    have hlt := w.wpos.isLt
    rw [BitVec.toNat_add, BitVec.toNat_ofNat, Nat.add_mod_mod, Nat.mod_eq_of_lt (hcount ▸ hlt)]
  refine ⟨⟨hwcfl.trans hw.count, hw.room⟩, rfl, rfl, ?_, ?_⟩
  · exact hwcfl ▸ Nat.le_add_right _ _
  · have hnext : w.wdst.toNat + (w.wcfl + BitVec.ofNat 64 w.chunk.length).toNat =
        w.nextStore + w.chunk.length := by rw [hwcfl, Writer.nextStore, Nat.add_assoc]
    show Stores w.nextStore (w.wdst.toNat + (w.wcfl + BitVec.ofNat 64 w.chunk.length).toNat) m m'
    exact hnext ▸ hm'

theorem putByte_ran (v : Byte) (hw : WriterFits w) : Yields (WriterRan w m) (putByte p w m v) := by
  simp only [putByte]
  split
  · exact nofun
  · rename_i hroom
    have hwpos : (w.wpos + 1).toNat = w.wpos.toNat + 1 := by
      have := w.wcap.isLt
      rw [BitVec.toNat_add_of_lt (by simpa using by omega)]
      rfl
    have hfits : WriterFits { w with chunk := w.chunk ++ [v], wpos := w.wpos + 1 } := by
      refine ⟨?_, ?_⟩
      · rw [hwpos, List.length_append, ← hw.count]
        rfl
      · rw [hwpos]
        exact Nat.lt_of_not_le hroom
    have hran : WriterRan w m ({ w with chunk := w.chunk ++ [v], wpos := w.wpos + 1 }, m) :=
      ⟨hfits, rfl, rfl, Nat.le_refl _, .refl _ _ _⟩
    split
    · exact (chunkWrite_ran hfits).imp fun _ h => hran.trans h
    · exact yields_ok hran

theorem putBit_ran (b : Bool) (hw : WriterFits w) : Yields (WriterRan w m) (putBit p w m b) := by
  unfold putBit
  split
  · exact (putByte_ran _ hw).bind fun x h =>
      yields_ok ⟨⟨h.fits.count, h.fits.room⟩, h.wdst, h.wcap, h.rises, h.stores⟩
  · exact yields_ok ⟨⟨hw.count, hw.room⟩, rfl, rfl, Nat.le_refl _, .refl _ _ _⟩

theorem writeBits_ran (bits : Word) (n : Nat) (hw : WriterFits w) :
    Yields (WriterRan w m) (writeBits p bits n w m) := by
  induction n generalizing w m with
  | zero => exact yields_ok (.refl m hw)
  | succ n ih => exact (putBit_ran _ hw).bind fun _ h => (ih h.fits).imp fun _ => h.trans

theorem flushWriter_ran (hw : WriterFits w) : Yields (WriterRan w m) (flushWriter p w m) := by
  have hpadded : Yields (WriterRan w m)
      (if 0 < w.wnacc.toNat then putByte p w m (BitVec.ofNat 8 (w.wacc.toNat * 2 ^ padBits w))
        else .ok (w, m)) := by
    split
    · exact putByte_ran _ hw
    · exact yields_ok (.refl m hw)
  rw [flushWriter_eq]
  exact hpadded.bind fun _ h => (chunkWrite_ran h.fits).imp fun _ => h.trans

theorem encodePayload_ran {v : View} {s : State} {src n i : Nat} (hw : WriterFits w) :
    Yields (WriterRan w m) (encodePayload v s src n i w m) := by
  induction n generalizing i w m with
  | zero => exact yields_ok (.refl m hw)
  | succ n ih =>
    exact yields_bind fun _ _ => yields_bind fun _ _ =>
      (writeBits_ran _ _ hw).bind fun _ h => (ih h.fits).imp fun _ => h.trans

end

/-! ### The bytes the frame codec stores -/

theorem length_leBytes (n v : Nat) : (leBytes n v).length = n := by
  induction n generalizing v with
  | zero => rfl
  | succ n ih => simp [leBytes, ih]

theorem length_frameHeader (size : Nat) (l : Vector Byte 256) :
    (frameHeader size l).length = Config.frameHdr := by
  simp [frameHeader, frameMagic, length_leBytes]

/-- A writer just opened on `[dst, dst + cap)` stores there, up to the bytes it was given. (Where `dst` is
the end of the address space, WDST is 0, and WCAP too: it stores nothing.) -/
theorem openedWriter_stores {dst cap : Nat} (hle : dst + cap ≤ addressLimit) {m : Memory}
    {x : Writer × Memory} (h : WriterRan (openedWriter dst cap) m x) :
    x.1.wpos.toNat ≤ cap ∧ Stores dst (dst + x.1.wpos.toNat) m x.2 := by
  have hlimit : addressLimit = 2 ^ 64 := rfl
  have hroom : x.1.wpos.toNat ≤ cap := h.wpos_le.trans (Nat.mod_le cap _)
  have hend : x.1.nextStore ≤ dst % 2 ^ 64 + x.1.wpos.toNat := h.nextStore_le_wpos
  have hstores : Stores (dst % 2 ^ 64) x.1.nextStore m x.2 := h.stores
  exact ⟨hroom, hstores.mono (by omega)⟩

/-- Header, payload, flush and backpatch store into the frame, which fits its capacity. -/
theorem encodeFrame_stores {v : View} {s : State} {src len dst cap : Nat}
    (hdst : dst + cap ≤ addressLimit) (hcap : Config.frameHdr ≤ cap) :
    Yields (fun f => f.length ≤ cap ∧ Stores dst (dst + f.length) s.mem f.state.mem)
      (encodeFrame v s src len dst cap) := by
  have hhdr : Config.frameHdr = 269 := rfl
  have hfits : WriterFits (openedWriter (dst + Config.frameHdr) (cap - Config.frameHdr)) :=
    ⟨rfl, Nat.zero_le _⟩
  refine (memWriteN_stores s.params s.mem dst (frameHeader len s.len)).bind fun m1 h1 =>
    (encodePayload_ran hfits).inFrame.havingStored.bind fun x2 h2 =>
    (flushWriter_ran h2.fits).inFrame.havingStored.bind fun x3 h3 =>
    (memWrite_stores s.params x3.2 (dst + 268) _).havingStored.bind fun m4 h4 => yields_ok ?_
  rw [length_frameHeader] at h1
  obtain ⟨hroom, hpayload⟩ := openedWriter_stores (by omega) (h2.trans h3)
  have hframe : Stores dst (dst + (Config.frameHdr + x3.1.wpos.toNat)) s.mem x3.2 :=
    h1.append (hpayload.mono (by omega)) (by omega) (by omega)
  exact ⟨show Config.frameHdr + x3.1.wpos.toNat ≤ cap by omega, hframe.trans (h4.mono (by omega))⟩

theorem frameEncodeBody_stores {v : View} {s : State} {src len dst cap : Nat} :
    Yields (fun f => dst + cap ≤ addressLimit ∧ f.length ≤ cap ∧
      Stores dst (dst + f.length) s.mem f.state.mem) (frameEncodeBody v s src len dst cap) := by
  refine yields_bind fun _ hchecks => (encodeTables_mem s len).bind fun s1 h1 => ?_
  obtain ⟨_, _, h⟩ := except_bind_eq_ok.1 (raisedIn_eq_ok.1 hchecks)
  obtain ⟨_, hdst, h⟩ := except_bind_eq_ok.1 h
  obtain ⟨_, hcap, _⟩ := except_bind_eq_ok.1 h
  have hdst := checkRange_eq_ok.1 hdst
  have hcap : Config.frameHdr ≤ cap := by simpa using failIf_eq_ok.1 hcap
  exact (encodeFrame_stores hdst hcap).raisedIn.imp fun _ hf => ⟨hdst, h1 ▸ hf⟩

theorem decodePayload_stores {v : View} {p : Config.Params} {c : Canon} {dst n i : Nat} {r : Reader}
    {m : Memory} :
    Yields (fun x => Stores (dst + i) (dst + i + n) m x.2) (decodePayload v p c dst n i r m) := by
  induction n generalizing i r m with
  | zero => exact yields_ok (.refl _ _ m)
  | succ n ih =>
    exact yields_bind fun _ _ => (memWrite_stores p m (dst + i) _).bind fun m1 h1 =>
      ih.imp fun _ h2 => h1.append (h2.mono (.inr (by omega))) (by omega) (by omega)

theorem frameDecodeBody_stores {v : View} {s : State} {src len dst cap : Nat}
    {expected : Option (Nat × Nat)} :
    Yields (fun f => dst + cap ≤ addressLimit ∧ f.size ≤ cap ∧
      Stores dst (dst + f.size) s.mem f.state.mem) (frameDecodeBody v s src len dst cap expected) := by
  refine yields_bind fun h hheader => yields_bind fun _ _ => yields_bind fun c _ => Yields.raisedIn ?_
  refine yields_bind fun _ _ => yields_bind fun _ hcap => decodePayload_stores.bind fun x hx => yields_ok ?_
  obtain ⟨_, _, hd⟩ := except_bind_eq_ok.1 (raisedIn_eq_ok.1 hheader)
  obtain ⟨_, hdst, _⟩ := except_bind_eq_ok.1 hd
  exact ⟨checkRange_eq_ok.1 hdst, by simpa using failIf_eq_ok.1 hcap, hx⟩

/-! ### The bytes the archive commands store -/

theorem length_beginBytes (p : Config.Params) (slots : Nat) :
    (beginBytes p slots).length = Config.archHdr + slots * p.entryLen := by
  have hhdr : Config.archHdr = 9 := rfl
  simp [beginBytes, archMagic, length_leBytes]
  omega

/-- ARCH_BEGIN stores the header and the placeholder table, which fit the capacity (45_archive.md R281). -/
theorem beginWrites_stores (s : State) :
    Yields (fun m => a0 s + a1 s ≤ addressLimit ∧ Config.archHdr + a2 s * s.params.entryLen ≤ a1 s ∧
      Stores (a0 s) (a0 s + (Config.archHdr + a2 s * s.params.entryLen)) s.mem m) (beginWrites s) := by
  refine yields_bind fun _ hrange => yields_bind fun _ _ => yields_bind fun _ hcap => ?_
  rw [← length_beginBytes]
  have hcap : (beginBytes s.params (a2 s)).length ≤ a1 s := by
    rw [length_beginBytes]
    simpa using failIf_eq_ok.1 hcap
  exact (memWriteN_stores s.params s.mem (a0 s) _).imp fun _ h => ⟨checkRange_eq_ok.1 hrange, hcap, h⟩

/-- A record of a sound entry RAM takes E bytes (30_encoding.md R108). -/
theorem length_entryBytes_getEntry {p : Config.Params} {ram : List Entry}
    (h : ∀ e ∈ ram, e.path.length = p.pathLen) (i : Nat) :
    (entryBytes (getEntry p ram i)).length = p.entryLen := by
  have hpath : (getEntry p ram i).path.length = p.pathLen := by
    unfold getEntry
    by_cases hi : i < ram.length
    · rw [List.getD_eq_getElem _ _ hi]
      exact h _ (List.getElem_mem hi)
    · rw [List.getD_eq_default _ _ (Nat.le_of_not_lt hi)]
      exact List.length_replicate
  simp [entryBytes, length_leBytes, hpath, Config.Params.entryLen]

theorem length_tableBytes {p : Config.Params} {ram : List Entry}
    (h : ∀ e ∈ ram, e.path.length = p.pathLen) (n : Nat) :
    (tableBytes p ram n).length = n * p.entryLen := by
  simp [tableBytes, List.length_flatMap, length_entryBytes_getEntry h]

/-- ARCH_END stores the count and the table, one after the other (45_archive.md R283). -/
theorem archEnd_stores {s : State} (h : ∀ e ∈ s.create.ram, e.path.length = s.params.pathLen) :
    Yields (fun d => Stores d.written.lo d.written.hi s.mem d.state.mem ∧ d.written =
      ⟨s.create.abase.toNat + 5,
        s.create.abase.toNat + Config.archHdr + s.create.an.toNat * s.params.entryLen⟩) (archEnd s) := by
  refine (memWriteN_stores s.params s.mem _ _).raisedIn.bind fun m1 h1 =>
    (memWriteN_stores s.params m1 _ _).raisedIn.bind fun m2 h2 => yields_ok ⟨?_, rfl⟩
  rw [length_leBytes] at h1
  rw [length_tableBytes h] at h2
  exact h1.append h2 (Nat.le_add_right _ _) (Nat.le_add_right _ _)

/-! ### The bytes a command stores -/

/-- Every address of a range lies in one of the ranges. -/
abbrev Within (r : Range) (rs : List Range) : Prop := ∀ a, inRange r a = true → inRanges rs a = true

/-- A write range is cut at the end of the address space, which cuts nothing that ends inside it. -/
theorem within_cut {lo hi start stop : Nat} (hlo : start ≤ lo) (hhi : hi ≤ stop)
    (hspace : stop ≤ addressLimit) : Within ⟨lo, hi⟩ [⟨start, min stop addressLimit⟩] := by
  intro a ha
  rw [inRange_eq_true] at ha
  rw [Nat.min_eq_left hspace]
  exact inRanges_eq_true.2 ⟨_, List.mem_singleton_self _, hlo.trans ha.1, ha.2.trans_le hhi⟩

/-- `n` bytes of a destination of capacity `cap` that ends inside the address space. -/
theorem within_rangeOf {a n cap : Nat} (hn : n ≤ cap) (hspace : a + cap ≤ addressLimit) :
    Within ⟨a, a + n⟩ [rangeOf a cap] :=
  within_cut (Nat.le_refl a) (Nat.add_le_add_left hn a) hspace

/-- A body that stores only into the addresses it reports as written, which lie in the write range. -/
abbrev StoresInRange (i : Instr) (s : State) (x : Except Raised Done) : Prop :=
  Yields (fun d => Stores d.written.lo d.written.hi s.mem d.state.mem ∧
    Within d.written (writeRanges i s)) x

theorem storesInRange_of_storesNothing {i : Instr} {s : State} {x : Except Raised Done}
    (h : StoresNothing s x) : StoresInRange i s x := by
  refine h.imp fun d hd => ?_
  obtain ⟨hmem, hwritten⟩ := hd
  rw [hmem, hwritten]
  exact ⟨.refl _ _ _, fun a ha => absurd (inRange_eq_true.1 ha).2 (Nat.not_lt_zero a)⟩

theorem WriterSound.fits {p : Config.Params} {w : Writer} (h : WriterSound p w) (ho : w.wopen = true) :
    WriterFits w := by
  obtain ⟨hcount, hroom, -⟩ := h.2 ho
  exact ⟨hcount, hroom⟩

/-- The chunks an open writer stores lie in its range (20_memory.md R72). -/
theorem WriterRan.storesInRange {s : State} {x : Writer × Memory} (hs : WriterSound s.params s.writer)
    (ho : s.writer.wopen = true) (h : WriterRan s.writer s.mem x) :
    Stores (storedRange s.writer x.1).lo (storedRange s.writer x.1).hi s.mem x.2 ∧
      Within (storedRange s.writer x.1) [writerRange s] := by
  obtain ⟨-, -, -, -, hspace⟩ := hs.2 ho
  have hend : x.1.nextStore ≤ s.writer.wdst.toNat + s.writer.wcap.toNat :=
    h.nextStore_le_wpos.trans (Nat.add_le_add_left h.wpos_le _)
  exact ⟨h.stores, within_cut (Nat.le_add_right _ _) hend hspace⟩

/-- 20_memory.md R72: a command that completes stored only the bytes it reports, in its write range. -/
theorem bodyOf_storesInRange {i : Instr} {s : State} (hunits : UnitsSound s)
    (hc : contextPresent i s = true) : StoresInRange i s (bodyOf i s) := by
  obtain ⟨hwriter, -, hcreate, -⟩ := hunits
  cases i with
  | bwWrite =>
    exact yields_bind fun _ _ => (writeBits_ran _ _ (hwriter.fits hc)).raisedIn.bind fun _ h =>
      yields_ok (h.storesInRange hwriter hc)
  | bwSym =>
    have ho : s.writer.wopen = true := (Bool.and_eq_true_iff.1 hc).1
    exact yields_bind fun _ _ => yields_bind fun _ _ =>
      (writeBits_ran _ _ (hwriter.fits ho)).raisedIn.bind fun _ h => yields_ok (h.storesInRange hwriter ho)
  | bwFlush =>
    exact (flushWriter_ran (hwriter.fits hc)).raisedIn.bind fun _ h => yields_ok (h.storesInRange hwriter hc)
  | frameEncode =>
    exact frameEncodeBody_stores.bind fun _ ⟨hspace, hlen, h⟩ => yields_ok ⟨h, within_rangeOf hlen hspace⟩
  | frameDecode =>
    exact frameDecodeBody_stores.bind fun _ ⟨hspace, hsize, h⟩ => yields_ok ⟨h, within_rangeOf hsize hspace⟩
  | archExtract =>
    exact yields_bind fun _ _ => frameDecodeBody_stores.bind fun _ ⟨hspace, hsize, h⟩ =>
      yields_ok ⟨h, within_rangeOf hsize hspace⟩
  | archBegin =>
    exact (beginWrites_stores s).raisedIn.bind fun _ ⟨hspace, hcap, h⟩ =>
      yields_ok ⟨h, within_rangeOf hcap hspace⟩
  | archAdd =>
    obtain ⟨-, -, -, -, -, haend, hspace⟩ := hcreate.2.1 hc
    exact yields_bind fun _ _ => frameEncodeBody_stores.bind fun _ ⟨_, hlen, h⟩ =>
      yields_ok ⟨h, within_cut (Nat.le_refl _) (by omega) hspace⟩
  | archEnd =>
    obtain ⟨han, -, -, hpaths, htable, haend, hspace⟩ := hcreate.2.1 hc
    have hrecords : s.create.an.toNat * s.params.entryLen ≤ s.create.aslots.toNat * s.params.entryLen :=
      Nat.mul_le_mul_right _ han
    exact (archEnd_stores hpaths).imp fun d ⟨h, hwritten⟩ =>
      ⟨h, hwritten ▸ within_cut (Nat.le_add_right _ _) (by omega) (by omega)⟩
  | _ => exact storesInRange_of_storesNothing (bodyOf_storesNothing s rfl)

/-! ### Memory after a command -/

theorem inRanges_byteRanges {as : List Nat} {a : Nat} : inRanges (byteRanges as) a = true ↔ a ∈ as := by
  rw [inRanges_eq_true]
  constructor
  · rintro ⟨r, hr, hlo, hhi⟩
    obtain ⟨k, hk, rfl⟩ := List.mem_map.1 hr
    exact Nat.le_antisymm hlo (Nat.le_of_lt_succ hhi) ▸ hk
  · exact fun ha => ⟨⟨a, a + 1⟩, List.mem_map.2 ⟨a, ha, rfl⟩, Nat.le_refl a, Nat.lt_succ_self a⟩

/-- Settling changes only bytes the command wrote, and bytes of its write range the host wrote. -/
theorem readByte_settledMem {i : Instr} {s : State} {d : Done} (hm : d.state.mem.wf) {a : Nat}
    (hwritten : inRange d.written a = false)
    (hraced : a ∈ s.raced → inRanges (writeRanges i s) a = false) :
    readByte (settledMem i s d) a = readByte d.state.mem a := by
  have hoverlap : readByte (havoc d.state.mem d.written (s.draws + 2)) a = readByte d.state.mem a := by
    rw [readByte_havoc hm, if_neg fun h => ?_]
    rw [inRange_eq_true.2 ⟨h.1, h.2.trans_le (Nat.min_le_left _ _)⟩] at hwritten
    contradiction
  have hfree : inRanges (byteRanges (s.raced.filter (inRanges (writeRanges i s)))) a = false := by
    rw [← Bool.not_eq_true, inRanges_byteRanges, List.mem_filter]
    exact fun ⟨ha, hin⟩ => Bool.false_ne_true ((hraced ha).symm.trans hin)
  simp only [settledMem]
  split
  · rw [readByte_havocAll (havoc_wf hm _ _) _ hfree, hoverlap]
  · rw [readByte_havocAll hm _ hfree]

/-- A completed command changes only bytes it wrote, and bytes of its write range the host wrote. -/
theorem readByte_completed {i : Instr} {s : State} {d : Done} {a : Nat} (hm : s.mem.wf)
    (hunits : UnitsSound s) (hc : contextPresent i s = true) (hd : bodyOf i s = .ok d)
    (hwritten : inRange d.written a = false)
    (hraced : a ∈ s.raced → inRanges (writeRanges i s) a = false) :
    readByte (completed i s d).mem a = readByte s.mem a := by
  obtain ⟨hstores, -⟩ := bodyOf_storesInRange hunits hc d hd
  refine (readByte_settledMem (bodyOf_wf i hm d hd) hwritten hraced).trans (hstores a ?_)
  rw [← Bool.not_eq_true, inRange_eq_true] at hwritten
  omega

/-- A failed command changes only bytes of the ranges the failure leaves unspecified (20_memory.md R89). -/
theorem readByte_raise {i : Instr} {s : State} {r : Raised} {a : Nat} (hm : s.mem.wf)
    (ha : inRanges (failureRanges i s) a = false) : readByte (s.raise i r).mem a = readByte s.mem a := by
  simp only [State.raise, State.deliver_mem]
  split
  · rfl
  · exact readByte_havocAll hm _ ha

/-- A command without a write range, and without a range its failure leaves unspecified, keeps memory. -/
theorem exec_mem_eq {i : Instr} {s t : State} (hw : writeRanges i s = []) (hf : failureRanges i s = [])
    (h : exec i s = .next t) : t.mem = s.mem := by
  rw [exec_eq_runCommand] at h
  obtain ⟨-, rfl⟩ | ⟨-, d, hd, rfl⟩ | ⟨-, r, -, rfl⟩ := runCommand_cases h
  · rfl
  · obtain ⟨hmem, -⟩ := bodyOf_storesNothing s hw d hd
    have hnone : s.raced.filter (inRanges []) = [] := List.filter_eq_nil_iff.2 fun _ _ => Bool.false_ne_true
    simp [completed, settledMem, selfOverlap, hw, hnone, byteRanges, havocAll, hmem]
  · simp [State.raise, hf, havocAll]

/-! ### The obligations -/

/-- Settles O57: every memory operation keeps the canonical form, and a step changes memory by a command,
by a failure, or by what an input does. -/
theorem stepKeepsMemoryCanonical : Obligations.StepKeepsMemoryCanonical := by
  intro s t hm h
  obtain ⟨-, i, -, hstep⟩ | ⟨-, -, hstep⟩ | ⟨-, -, hstep⟩ | ⟨-, op, rest, -, hstep⟩ := step_cases s <;>
    rw [hstep] at h
  · exact exec_wf hm h
  · exact Host.Outcome.next.inj h ▸ hm
  · exact Host.Outcome.next.inj h ▸ hm
  · exact hostAct_wf (s := s.takeInput rest) hm h

/-- Settles O14: by what a host write and a host read do, in and outside a running command's ranges. -/
theorem hostMemoryAccesses : Obligations.HostMemoryAccesses := by
  intro s a b ha hm
  refine ⟨⟨hostMemWrite s a b, if_pos ha, fun x hx => ?_, ?_, fun hr => ?_, fun hr => ?_⟩,
    ⟨hostMemRead s a, _, if_pos ha, hostMemRead_eq s a, fun hr he => ?_, fun hr => ?_⟩⟩
  · rw [readByte_hostMemWrite hm ha, if_neg hx]
  · obtain ⟨m, raced, draws, hw⟩ := hostMemWrite_keeps s a b
    rw [hw]
  · simp [readByte_hostMemWrite hm ha, hostMemWrite_raced, hr]
  · simp [readByte_hostMemWrite hm ha, hostMemWrite_raced, hr]
  · simp [hostReadsFree, hr, he]
  · obtain hr | hr := hr <;> simp [hostReadsFree, hr]

/-- Settles O22: each command checks the ranges of its address arguments before anything else. -/
theorem passingTheAddressSpaceIsBadRange : Obligations.PassingTheAddressSpaceIsBadRange := by
  intro i s index _ hc h
  obtain ⟨rfl, h, rfl⟩ | ⟨hi, h, rfl⟩ | ⟨hi, h1, h2, rfl⟩ | ⟨rfl, h, rfl⟩ := h
  · exact exec_of_failsBadRange hc (by decide)
      (failsBadRange_bind (failsBadRange_raisedIn (checkRange_passing h)))
  · exact exec_of_failsBadRange hc (by decide) (bodyOf_failsBadRange_first hi h)
  · exact exec_of_failsBadRange hc (by decide) (bodyOf_failsBadRange_second hi h1 h2)
  · exact exec_of_failsBadRange hc (by decide)
      (failsBadRange_bind (failsBadRange_raisedIn (checkRange_bind_passing h)))

/-- Settles O18: a command that completes changed only what it stored, in its write range; one that fails
left at most its failure's ranges unspecified; one without either range stores nothing. -/
theorem commandsWriteOnlyTheirRanges : Obligations.CommandsWriteOnlyTheirRanges := by
  refine ⟨fun i s t a hm _ hunits h hwrite hfail => ?_,
    fun i s t d a hm _ hunits hrace hc hd h hstored => ?_, fun i s t h hi => ?_⟩
  · rw [exec_eq_runCommand] at h
    obtain ⟨-, rfl⟩ | ⟨hc, d, hd, rfl⟩ | ⟨-, r, -, rfl⟩ := runCommand_cases h
    · rfl
    · obtain ⟨-, hwithin⟩ := bodyOf_storesInRange hunits hc d hd
      have hwritten : inRange d.written a = false :=
        Bool.eq_false_iff.2 fun ha => Bool.false_ne_true (hwrite.symm.trans (hwithin a ha))
      exact readByte_completed hm hunits hc hd hwritten fun _ => hwrite
    · exact readByte_raise hm hfail
  · have hwritten : inRange d.written a = false := by simpa [storedBy, hc, hd] using hstored
    rw [exec_eq_runCommand, runCommand_ok hc hd] at h
    obtain rfl := Host.Outcome.next.inj h
    exact readByte_completed hm hunits hc hd hwritten fun ha => absurd (hrace ▸ ha) List.not_mem_nil
  · cases i with
    | bwOpen | bwWrite | bwSym | bwFlush | frameEncode | frameDecode => exact absurd hi (by decide)
    | archBegin | archAdd | archEnd | archExtract => exact absurd hi (by decide)
    | _ => exact exec_mem_eq rfl rfl h

end Sys2Proof.Machine

namespace Sys2Proof

/-! PROOFS. Encoding: the fields of a command word, the opcode map, and decode as the inverse of encode
(spec/30_encoding.md R100, R103). -/

/-! ### The fields of a command word -/

@[simp] theorem CmdWord.ofWord_toWord (c : CmdWord) : CmdWord.ofWord c.toWord = c := by
  obtain ⟨opcode, reserved⟩ := c
  rw [CmdWord.ofWord, CmdWord.toWord, CmdWord.mk.injEq]
  exact ⟨BitVec.extractLsb'_append_eq_right, BitVec.extractLsb'_append_eq_left⟩

@[simp] theorem CmdWord.toWord_ofWord (w : Word) : (CmdWord.ofWord w).toWord = w :=
  BitVec.extractLsb'_append_extractLsb' (w := 56) (len := 8)

/-- A word is the encoding of a command exactly if RESERVED is 0 and OPCODE is the command's (R100). -/
theorem eq_encode_iff {w : Word} {i : Instr} :
    w = encode i ↔ (CmdWord.ofWord w).reserved = 0 ∧ (CmdWord.ofWord w).opcode = opcodeOf i := by
  constructor
  · rintro rfl
    rw [encode, CmdWord.ofWord_toWord]
    exact ⟨rfl, rfl⟩
  · rintro ⟨hreserved, hopcode⟩
    rw [encode, ← hreserved, ← hopcode, CmdWord.toWord_ofWord]

/-! ### The opcode map -/

theorem commandOfOpcode_opcodeOf (i : Instr) : commandOfOpcode (opcodeOf i).toNat = some i := by
  cases i <;> rfl

theorem toNat_opcodeOf_of_commandOfOpcode {n : Nat} {i : Instr} (h : commandOfOpcode n = some i) :
    n = (opcodeOf i).toNat := by
  unfold commandOfOpcode at h
  split at h
  all_goals cases h
  all_goals rfl

/-- The map from opcode to command and the map from command to opcode are the same table (R103). -/
theorem commandOfOpcode_eq_some_iff {b : Byte} {i : Instr} :
    commandOfOpcode b.toNat = some i ↔ b = opcodeOf i := by
  constructor
  · exact fun h => BitVec.eq_of_toNat_eq (toNat_opcodeOf_of_commandOfOpcode h)
  · rintro rfl
    exact commandOfOpcode_opcodeOf i

/-! ### The decoder -/

/-- The two checks of R100, in the form of the decoder's success. -/
theorem decode_eq_ok_iff {w : Word} {i : Instr} :
    decode w = .ok i ↔
      (CmdWord.ofWord w).reserved = 0 ∧ commandOfOpcode (CmdWord.ofWord w).opcode.toNat = some i := by
  by_cases hreserved : (CmdWord.ofWord w).reserved = 0
  · rw [decode, if_neg (not_not_intro hreserved), and_iff_right hreserved]
    cases commandOfOpcode (CmdWord.ofWord w).opcode.toNat <;> simp
  · rw [decode, if_pos hreserved]
    exact iff_of_false nofun fun ⟨h, _⟩ => hreserved h

/-- The words that decode to a command are its encoding and no other. -/
theorem decode_eq_ok_iff_eq_encode {w : Word} {i : Instr} : decode w = .ok i ↔ w = encode i := by
  rw [decode_eq_ok_iff, commandOfOpcode_eq_some_iff, eq_encode_iff]

@[simp] theorem decode_encode (i : Instr) : decode (encode i) = .ok i :=
  decode_eq_ok_iff_eq_encode.2 rfl

end Sys2Proof

namespace Sys2Proof.Machine

/-! ### The obligations of the encoding -/

/-- Settles O9: a word decodes to a command exactly if it is the command's encoding. -/
theorem decodeAndEncodeAgree : Obligations.DecodeAndEncodeAgree :=
  ⟨decode_encode, fun _ _ => decode_eq_ok_iff_eq_encode.1⟩

/-- Settles O10: each word of the opcode map is the encoding of its command. -/
theorem opcodeMapDecodes : Obligations.OpcodeMapDecodes := by
  unfold Obligations.OpcodeMapDecodes
  and_intros
  all_goals exact decode_eq_ok_iff_eq_encode.2 (by decide)

end Sys2Proof.Machine

namespace Sys2Proof.Machine

/-! PROOFS. The host interface: register accesses and what they read and write, the engine's turn, and how a
command completes or fails (spec/40_host_interface.md). -/

/-! ### The fields of a register -/

/-- A field of a word built from a number is the number's own bits there. -/
theorem field_ofNat {n hi lo : Nat} (h : hi < 64) :
    field (BitVec.ofNat 64 n) hi lo = n / 2 ^ lo % 2 ^ (hi + 1 - lo) := by
  unfold field
  rw [BitVec.toNat_ofNat]
  refine Nat.eq_of_testBit_eq fun j => ?_
  simp only [Nat.testBit_mod_two_pow, Nat.testBit_div_two_pow]
  by_cases hj : j < hi + 1 - lo
  · have hin : j + lo < 64 := by omega
    simp [hj, hin]
  · simp [hj]

/-- The bits above a number's own read 0. -/
theorem field_ofNat_above {n hi lo : Nat} (h : hi < 64) (hn : n < 2 ^ lo) :
    field (BitVec.ofNat 64 n) hi lo = 0 := by
  rw [field_ofNat h, Nat.div_eq_of_lt hn, Nat.zero_mod]

theorem bit_lt_two (b : Bool) : bit b < 2 := by cases b <;> decide

theorem whenTrue_of_true {c : Bool} {v : Nat} (h : c = true) : whenTrue c v = BitVec.ofNat 64 v := if_pos h

theorem whenTrue_of_false {c : Bool} {v : Nat} (h : c = false) : whenTrue c v = 0 := h ▸ rfl

theorem whenTrue_toNat {c : Bool} {w : Word} (h : c = true) : whenTrue c w.toNat = w := by
  rw [whenTrue_of_true h, BitVec.ofNat_toNat, BitVec.setWidth_eq]

theorem idWord_fields {p : Config.Params} (hp : p.Legal) :
    field (idWord p) 7 0 = 1 ∧ field (idWord p) 15 8 = 64 ∧ field (idWord p) 31 16 = p.pathLen ∧
      field (idWord p) 47 32 = p.maxMembers ∧ field (idWord p) 63 48 = p.chunkBytes := by
  obtain ⟨⟨-, hpath⟩, ⟨-, hmembers⟩, -, hchunk⟩ := hp
  simp (disch := decide) only [idWord, field_ofNat, Config.maxCodeLen]
  omega

theorem statusWord_fields (s : State) :
    field (statusWord s) 0 0 = bit s.busy ∧ field (statusWord s) 1 1 = bit s.done ∧
    field (statusWord s) 2 2 = bit s.err ∧ field (statusWord s) 3 3 = bit s.overrun ∧
    field (statusWord s) 4 4 = bit s.create.partialAdd ∧ field (statusWord s) 5 5 = bit s.treeValid ∧
    field (statusWord s) 6 6 = bit s.canonValid ∧ field (statusWord s) 7 7 = bit s.writer.wopen ∧
    field (statusWord s) 8 8 = bit s.reader.ropen ∧ field (statusWord s) 9 9 = bit s.create.archW ∧
    field (statusWord s) 10 10 = bit s.reading.archR ∧ field (statusWord s) 15 11 = 0 ∧
    field (statusWord s) 23 16 = s.errcode.toNat ∧ field (statusWord s) 63 27 = 0 ∧
    (s.errcode.toNat < 128 → field (statusWord s) 26 24 = s.errcode.toNat / 16) := by
  have hbusy := bit_lt_two s.busy
  have hdone := bit_lt_two s.done
  have herr := bit_lt_two s.err
  have hoverrun := bit_lt_two s.overrun
  have hpartialAdd := bit_lt_two s.create.partialAdd
  have htreeValid := bit_lt_two s.treeValid
  have hcanonValid := bit_lt_two s.canonValid
  have hwopen := bit_lt_two s.writer.wopen
  have hropen := bit_lt_two s.reader.ropen
  have harchW := bit_lt_two s.create.archW
  have harchR := bit_lt_two s.reading.archR
  have hcode := s.errcode.isLt
  have hreserved : field (statusWord s) 63 27 = 0 :=
    field_ofNat_above (by decide) (by rw [errKind]; omega)
  rw [hreserved]
  simp (disch := decide) only [statusWord, errKind, field_ofNat, true_and]
  omega

theorem linkWord_fields (l : Link) :
    field (linkWord l) 15 0 = l.left.toNat ∧ field (linkWord l) 31 16 = l.right.toNat ∧
      field (linkWord l) 39 32 = l.symbol.toNat ∧ field (linkWord l) 40 40 = bit l.isLeaf ∧
      field (linkWord l) 63 41 = 0 := by
  have hleaf := bit_lt_two l.isLeaf
  simp (disch := decide) only [linkWord, field_ofNat]
  omega

/-! ### What a register read returns -/

theorem readReg_of_not_busy {s : State} (h : s.busy = false) : readReg s = regValue s := by
  funext r
  simp [readReg, readsUnspecified, h]

/-- The registers that keep their meaning while BUSY = 1 (40_host_interface.md R141). -/
theorem readReg_of_readableWhileBusy {s : State} {r : Reg} (h : readableWhileBusy r = true) :
    readReg s r = regValue s r := by
  simp [readReg, readsUnspecified, h]

theorem readReg_of_busy {s : State} {r : Reg} (h : s.busy = true) (hr : readableWhileBusy r = false) :
    readReg s r = Config.freeWord s.draws := by
  simp [readReg, readsUnspecified, h, hr]

theorem readableWhileBusy_eq_false {r : Reg} (hid : r ≠ .id) (hctrl : r ≠ .ctrl) (hstatus : r ≠ .status)
    (herrinfo : r ≠ .errinfo) (harg : ∀ n, r ≠ .arg n) (hres : ∀ n, r ≠ .res n) :
    readableWhileBusy r = false := by
  cases r with
  | id => exact absurd rfl hid
  | ctrl => exact absurd rfl hctrl
  | status => exact absurd rfl hstatus
  | errinfo => exact absurd rfl herrinfo
  | arg n => exact absurd rfl (harg n)
  | res n => exact absurd rfl (hres n)
  | _ => rfl

theorem controlWordsHold_readReg (s : State) : ControlWordsHold s (readReg s) := by
  have hread : ∀ r, readableWhileBusy r = true → readReg s r = regValue s r :=
    fun _ => readReg_of_readableWhileBusy
  have hirqEn := bit_lt_two s.irqEn
  refine ⟨fun hp => ?_, ?_, ?_, hread _ rfl, fun _ => hread _ rfl, fun _ => hread _ rfl⟩
  · rw [hread .id rfl]
    exact idWord_fields hp
  · rw [hread .ctrl rfl]
    simp (disch := decide) only [regValue, field_ofNat]
    omega
  · rw [hread .status rfl]
    exact statusWord_fields s

/-- The failure count keeps its field while no creation is open (10_state.md R36). -/
theorem regValue_aCount (s : State) : regValue s .aCount = BitVec.ofNat 64
    ((if s.create.archW then s.create.an.toNat + s.create.aslots.toNat * 2 ^ 16 else 0) +
      s.create.afail.toNat * 2 ^ 32) := by
  cases ho : s.create.archW <;> simp [regValue, ho, whenTrue, BitVec.ofNat_add]

theorem aCount_fields_of_open {s : State} (ho : s.create.archW = true) :
    field (regValue s .aCount) 15 0 = s.create.an.toNat ∧
      field (regValue s .aCount) 31 16 = s.create.aslots.toNat := by
  simp (disch := decide) only [regValue_aCount, ho, if_true, field_ofNat]
  omega

theorem aCount_field_of_closed {s : State} (hc : s.create.archW = false) :
    field (regValue s .aCount) 31 0 = 0 := by
  simp (disch := decide) only [regValue_aCount, hc, Bool.false_eq_true, if_false, field_ofNat]
  omega

theorem aCount_afail (s : State) : field (regValue s .aCount) 63 32 = s.create.afail.toNat := by
  simp (disch := decide) only [regValue_aCount, field_ofNat]
  split <;> omega

theorem unitWordsHold_regValue (s : State) : UnitWordsHold s (regValue s) := by
  refine ⟨rfl, ?_, ?_, fun ho => ⟨whenTrue_toNat ho, ?_⟩,
    fun hc => ⟨whenTrue_of_false hc, whenTrue_of_false hc⟩, fun ho => ⟨whenTrue_toNat ho, ?_⟩,
    fun hc => ⟨whenTrue_of_false hc, whenTrue_of_false hc⟩,
    fun ho => ⟨whenTrue_toNat ho, aCount_fields_of_open ho⟩,
    fun hc => ⟨whenTrue_of_false hc, aCount_field_of_closed hc⟩, aCount_afail s, fun ho => ?_,
    whenTrue_of_false⟩
  · simp (disch := decide) only [regValue, field_ofNat]
    omega
  · simp (disch := decide) only [regValue, field_ofNat]
    omega
  · simp (disch := decide) only [regValue, whenTrue_of_true ho, field_ofNat]
    omega
  · simp (disch := decide) only [regValue, whenTrue_of_true ho, field_ofNat]
    omega
  · simp (disch := decide) only [regValue, whenTrue_of_true ho, field_ofNat]
    omega

theorem windowWordsHold_regValue (s : State) : WindowWordsHold s (regValue s) := by
  refine ⟨fun _ => rfl, fun n => ?_, fun _ => rfl, fun _ => rfl, fun n => ?_,
    fun n hn => ⟨whenTrue_toNat (decide_eq_true hn), ?_⟩,
    fun n hn => ⟨whenTrue_of_false (decide_eq_false hn.not_gt), if_neg hn.not_gt⟩,
    fun n hn => ?_, fun n hn => whenTrue_of_false (decide_eq_false hn.not_gt)⟩
  · simp only [regValue, BitVec.toNat_ofNat]
    omega
  · simp (disch := decide) only [regValue, field_ofNat]
    omega
  · rw [regValue, if_pos hn]
    exact linkWord_fields _
  · simp (disch := decide) only [regValue, whenTrue_of_true (decide_eq_true hn), field_ofNat]
    omega

/-! ### Register accesses -/

/-- A register read changes the answers and the draws only. -/
theorem mmioRead_frame (s : State) (bytes addr : Nat) :
    mmioRead s bytes addr =
      { s with responses := (mmioRead s bytes addr).responses, draws := (mmioRead s bytes addr).draws } := by
  unfold mmioRead
  split
  · rfl
  split
  · rfl
  split
  · rfl
  next r _ => cases readsUnspecified s r <;> rfl

theorem offsetOf_mod_eight (r : Reg) : offsetOf r % 8 = 0 := by
  cases r <;> simp only [offsetOf] <;> omega

/-- An access reaches a register exactly if it is 64 bits wide and at the register's offset
(40_host_interface.md R140). -/
theorem accessedReg_eq_some_iff {p : Config.Params} {bytes addr : Nat} {r : Reg} :
    accessedReg p bytes addr = some r ↔ bytes = 8 ∧ offsetOf r = addr - p.mmioBase := by
  unfold accessedReg
  split
  next hb =>
    rw [and_iff_right hb]
    exact ⟨fun h => (offsetOf_of_regAt h).symm, fun h => h ▸ regAt_offsetOf r⟩
  next hb => simp [hb]

theorem accessedReg_eq_none {p : Config.Params} {bytes addr : Nat}
    (h : ¬(bytes = 8 ∧ (addr - p.mmioBase) % 8 = 0 ∧ ∃ r, offsetOf r = addr - p.mmioBase)) :
    accessedReg p bytes addr = none := by
  refine Option.eq_none_iff_forall_ne_some.2 fun r hr => h ?_
  obtain ⟨hb, ho⟩ := accessedReg_eq_some_iff.1 hr
  exact ⟨hb, ho ▸ offsetOf_mod_eight r, r, ho⟩

/-- A register write, the soft reset among them, answers nothing itself. -/
theorem writeReg_responses (s : State) (r : Reg) (v : Word) : (writeReg s r v).responses = s.responses := by
  cases r with
  | ctrl => simp only [writeReg, writeCtrl]; split <;> rfl
  | status => rw [writeReg, writeStatus_eq]
  | cmd | freq n | len n => simp only [writeReg]; split <;> rfl
  | _ => rfl

section
variable {s : State} {bytes addr : Nat} (hw : inWindow s.params addr = true)
include hw

theorem mmioRead_held (hheld : s.resetHeld = true) : mmioRead s bytes addr = s.respond .ignored := by
  simp [mmioRead, hw, hheld]

theorem mmioWrite_held (v : Word) (hheld : s.resetHeld = true) :
    mmioWrite s bytes addr v = s.respond .ignored := by
  simp [mmioWrite, hw, hheld]

theorem mmioRead_refused (hheld : s.resetHeld = false) (hr : accessedReg s.params bytes addr = none) :
    mmioRead s bytes addr = s.respond .busError := by
  simp [mmioRead, hw, hheld, hr]

theorem mmioWrite_refused (v : Word) (hheld : s.resetHeld = false)
    (hr : accessedReg s.params bytes addr = none) : mmioWrite s bytes addr v = s.respond .busError := by
  simp [mmioWrite, hw, hheld, hr]

theorem mmioRead_accepted {r : Reg} (hheld : s.resetHeld = false)
    (hr : accessedReg s.params bytes addr = some r) : mmioRead s bytes addr =
      { s with
        responses := s.responses ++ [.data (readReg s r)], draws := (mmioRead s bytes addr).draws } := by
  have hread : mmioRead s bytes addr = (s.respond (.data (readReg s r))).drew (readsUnspecified s r) := by
    simp [mmioRead, hw, hheld, hr]
  rw [hread]
  cases readsUnspecified s r <;> rfl

theorem mmioWrite_accepted {r : Reg} (v : Word) (hheld : s.resetHeld = false)
    (hr : accessedReg s.params bytes addr = some r) :
    mmioWrite s bytes addr v =
      { writeReg s r v with responses := s.responses ++ [.accepted] } := by
  simp [mmioWrite, hw, hheld, hr, State.respond, writeReg_responses]

end

/-! ### The engine's turn -/

theorem step_of_engineTurn {s : State} (h : engineTurn s = true) : step s = engineStep s := if_pos h

theorem engineTurn_eq_true {s : State} (hb : s.busy = true)
    (h : s.delay = 0 ∨ s.inputs = [] ∨ ∃ rest, s.inputs = .wait :: rest) : engineTurn s = true := by
  obtain h | h | ⟨rest, h⟩ := h <;> simp [engineTurn, hb, h]

theorem engineTurn_eq_false {s : State} {op : HostOp} {rest : List HostOp} (hi : s.inputs = op :: rest)
    (h : s.busy = false ∨ (s.delay ≠ 0 ∧ op ≠ .wait)) : engineTurn s = false := by
  obtain hb | ⟨hd, hop⟩ := h
  · simp [engineTurn, hb]
  · cases op <;> simp_all [engineTurn]

theorem decodeTableWord_eq_some {nbits w : Nat} {i : Instr} (h : decodeTableWord nbits w = some i) :
    decode (commandWord nbits w) = .ok i := by
  unfold decodeTableWord at h
  split at h <;> simp_all

/-! ### Legal command words -/

theorem mem_assignedOpcodes_iff {n : Nat} : n ∈ assignedOpcodes ↔ ∃ i, commandOfOpcode n = some i := by
  constructor
  · have hall : ∀ n ∈ assignedOpcodes, (commandOfOpcode n).isSome = true := by decide
    exact fun hn => Option.isSome_iff_exists.1 (hall n hn)
  · rintro ⟨i, hi⟩
    rw [toNat_opcodeOf_of_commandOfOpcode hi]
    cases i <;> decide

/-- The two checks of 30_encoding.md R100, on the word itself. -/
theorem exists_decode_eq_ok_iff {w : Word} : (∃ i, decode w = .ok i) ↔
    w.extractLsb' 8 56 = 0 ∧ (w.extractLsb' 0 8).toNat ∈ assignedOpcodes := by
  simp only [decode_eq_ok_iff, exists_and_left, mem_assignedOpcodes_iff]
  rfl

/-- The failed completion, where the detail fits ERRINFO. -/
theorem deliver_eq_failedWith (s : State) (c : ErrCode) {info : Nat} (h : info < addressLimit) :
    s.deliver { code := c, info := info } = failedWith s c.byte info := by
  simp only [State.deliver, infoWord, if_pos h]
  rfl

theorem badOpcode_eq (s : State) : s.badOpcode = failedWith s 0x51 s.latch.op.toNat :=
  deliver_eq_failedWith s .badOpcode s.latch.op.isLt

theorem engineStep_illegal {s : State} (h : ¬∃ i, decode s.latch.op = .ok i) :
    engineStep s = .next s.badOpcode := by
  unfold engineStep
  split
  next i hi => exact absurd ⟨i, hi⟩ h
  · rfl

/-! ### Completion -/

theorem exists_exec_eq_next (i : Instr) (s : State) : ∃ t, exec i s = .next t := by
  rw [exec_eq_runCommand]
  unfold runCommand
  split
  · split <;> exact ⟨_, rfl⟩
  · exact ⟨_, rfl⟩

/-- A command keeps the error report when it completes, and raises a new one when it fails. -/
theorem exec_errorReport {i : Instr} {s t : State} (h : exec i s = .next t) :
    errorReport t = errorReport s ∨ ∃ u e, t = State.deliver u e := by
  obtain ⟨d, hc, rfl⟩ | ⟨u, e, -, rfl⟩ := exec_commits h
  · have hreport : errorReport d.state = errorReport s := hc.keeps fun _ _ hab => hab.errorReport_eq
    exact .inl hreport
  · exact .inr ⟨u, e, rfl⟩

theorem exec_idle {i : Instr} {s t : State} (h : exec i s = .next t) : t.busy = false ∧ t.done = true := by
  obtain ⟨d, -, rfl⟩ | ⟨u, e, -, rfl⟩ := exec_commits h <;> exact ⟨rfl, rfl⟩

/-! ### NOP -/

/-- Without a write range, settling adds nothing to the memory a command leaves. -/
theorem settledMem_of_writeRanges_nil {i : Instr} {s : State} {d : Done} (h : writeRanges i s = []) :
    settledMem i s d = d.state.mem := by
  have hnone : s.raced.filter (inRanges []) = [] := List.filter_eq_nil_iff.2 fun _ _ => Bool.false_ne_true
  simp [settledMem, selfOverlap, h, hnone, byteRanges, havocAll]

theorem completed_eq_finished_of_writeRanges_nil {i : Instr} {s : State} {d : Done}
    (h : writeRanges i s = []) (hdraws : d.state.draws = s.draws) :
    completed i s d = finished d.state d.r0 d.r1 d.r2 d.r3 := by
  simp [completed, finished, results, settledMem_of_writeRanges_nil h, hdraws]

/-! ### The required context -/

theorem contextPresent_eq_false_iff (i : Instr) (s : State) : contextPresent i s = false ↔
      (i = .treeLengths ∧ s.treeValid = false) ∨
      (i ∈ [.bwWrite, .bwFlush, .bwSym] ∧ s.writer.wopen = false) ∨
      (i ∈ [.bwSym, .brSym] ∧ s.canonValid = false) ∨
      (i ∈ [.brReadbit, .brSym] ∧ s.reader.ropen = false) ∨
      (i ∈ [.archAdd, .archEnd] ∧ s.create.archW = false) ∨
      (i ∈ [.archEntry, .archFind, .archExtract] ∧ s.reading.archR = false) := by
  cases i with
  | bwSym => simp [contextPresent, -Bool.and_eq_false_imp, Bool.and_eq_false_iff]
  | brSym => simp [contextPresent, -Bool.and_eq_false_imp, Bool.and_eq_false_iff, or_comm]
  | _ => simp [contextPresent]

/-! ### The errors a command can raise

NO_STATE is the error of the context check alone: no step of a command's body raises it, so neither does a
sequence of such steps. -/

/-- `P` holds of the error of a step, if it fails. -/
def FailsOnly {ε α : Type} (P : ε → Prop) (x : Except ε α) : Prop := ∀ e, x = .error e → P e

/-- A step that never fails with NO_STATE. -/
abbrev NeverNoState {α : Type} (x : Except CmdError α) : Prop := FailsOnly (·.code ≠ .noState) x

/-- A step of a body, with its commits, that never raises NO_STATE. -/
abbrev NeverRaisesNoState {α : Type} (x : Except Raised α) : Prop :=
  FailsOnly (·.error.code ≠ .noState) x

section
variable {ε α β : Type} {P : ε → Prop}

theorem failsOnly_ok (a : α) : FailsOnly P (.ok a : Except ε α) := nofun

theorem failsOnly_error {e : ε} (h : P e) : FailsOnly P (.error e : Except ε α) :=
  fun _ he => Except.error.inj he ▸ h

theorem FailsOnly.bind {x : Except ε β} {f : β → Except ε α} (hx : FailsOnly P x)
    (hf : ∀ b, FailsOnly P (f b)) : FailsOnly P (x >>= f) := fun e he => by
  obtain he | ⟨b, -, he⟩ := except_bind_eq_error.1 he
  · exact hx e he
  · exact hf b e he

theorem NeverNoState.havingStored {n : Nat} {x : Except CmdError α} (hx : NeverNoState x) :
    NeverNoState (havingStored n x) := fun e he => by
  obtain ⟨e', he', rfl⟩ := havingStored_eq_error.1 he
  exact hx e' he'

theorem frameError_code (e : CmdError) : (frameError e).code = e.code := by
  unfold frameError
  split <;> rfl

theorem NeverNoState.inFrame {x : Except CmdError α} (hx : NeverNoState x) : NeverNoState (inFrame x) := by
  cases x with
  | ok a => exact failsOnly_ok a
  | error e => exact failsOnly_error (frameError_code e ▸ hx e rfl)

theorem NeverNoState.raisedIn {x : Except CmdError α} (hx : NeverNoState x) (s : State) :
    NeverRaisesNoState (raisedIn s x) := fun r hr => by
  obtain ⟨e, he, rfl⟩ := raisedIn_eq_error.1 hr
  exact hx e he

end

theorem failIf_neverNoState {c : Bool} {k : ErrCode} {n : Nat} (hk : k ≠ .noState := by decide) :
    NeverNoState (failIf c k n) := fun e he => by
  obtain ⟨-, rfl⟩ := failIf_eq_error.1 he
  exact hk

/-- A check, and the rest of the step after it. -/
theorem failIf_bind_neverNoState {α : Type} {c : Bool} {k : ErrCode} {n : Nat}
    {f : Unit → Except CmdError α} (hf : ∀ u, NeverNoState (f u)) (hk : k ≠ .noState := by decide) :
    NeverNoState (failIf c k n >>= f) :=
  (failIf_neverNoState hk).bind hf

/-- A check at the head of a body, and the rest of the body after it. -/
theorem failIf_bind_neverRaisesNoState {α : Type} {s : State} {c : Bool} {k : ErrCode} {n : Nat}
    {f : Unit → Except Raised α} (hf : ∀ u, NeverRaisesNoState (f u))
    (hk : k ≠ .noState := by decide) :
    NeverRaisesNoState (raisedIn s (failIf c k n) >>= f) :=
  ((failIf_neverNoState hk).raisedIn s).bind hf

/-! The data port and the bit streams. -/

theorem memRead_neverNoState (v : View) (a : Nat) : NeverNoState (memRead v a) := by
  unfold memRead
  split
  · exact failsOnly_ok _
  · exact failsOnly_error nofun

theorem memReadN_neverNoState (v : View) (a n : Nat) : NeverNoState (memReadN v a n) := by
  induction n generalizing a with
  | zero => exact failsOnly_ok _
  | succ n ih => exact (memRead_neverNoState v a).bind fun _ => (ih (a + 1)).bind fun _ => failsOnly_ok _

theorem memWrite_neverNoState (p : Config.Params) (m : Memory) (a : Nat) (b : Byte) :
    NeverNoState (memWrite p m a b) := by
  unfold memWrite
  split
  · exact failsOnly_ok _
  · exact failsOnly_error nofun

theorem memWriteN_neverNoState (p : Config.Params) (m : Memory) (a : Nat) (bs : List Byte) :
    NeverNoState (memWriteN p m a bs) := fun e he => by
  obtain ⟨k, -, rfl, -⟩ := memWriteN_error he
  exact nofun

section
variable (p : Config.Params) (w : Writer) (m : Memory)

theorem chunkWrite_neverNoState : NeverNoState (chunkWrite p w m) :=
  (memWriteN_neverNoState p m _ _).bind fun _ => failsOnly_ok _

theorem putByte_neverNoState (v : Byte) : NeverNoState (putByte p w m v) := by
  unfold putByte
  split
  · exact failsOnly_error nofun
  dsimp only
  split
  · exact chunkWrite_neverNoState p _ m
  · exact failsOnly_ok _

theorem putBit_neverNoState (b : Bool) : NeverNoState (putBit p w m b) := by
  unfold putBit
  dsimp only
  split
  · exact (putByte_neverNoState p w m _).bind fun _ => failsOnly_ok _
  · exact failsOnly_ok _

theorem writeBits_neverNoState (bits : Word) (n : Nat) : NeverNoState (writeBits p bits n w m) := by
  induction n generalizing w m with
  | zero => exact failsOnly_ok _
  | succ n ih => exact (putBit_neverNoState p w m _).bind fun x => ih x.1 x.2

theorem flushWriter_neverNoState : NeverNoState (flushWriter p w m) := by
  rw [flushWriter_eq]
  refine FailsOnly.bind ?_ fun x => chunkWrite_neverNoState p x.1 x.2
  split
  · exact putByte_neverNoState p w m _
  · exact failsOnly_ok _

end

theorem readBit_neverNoState (v : View) (r : Reader) : NeverNoState (readBit v r) := by
  unfold readBit
  split
  · split
    · exact failsOnly_ok _
    · exact (memRead_neverNoState v _).bind fun _ => failsOnly_ok _
  · exact failsOnly_ok _

theorem decodeBits_neverNoState (v : View) (c : Canon) (produced fuel n value : Nat) (r : Reader) :
    NeverNoState (decodeBits v c produced fuel n value r) := by
  induction fuel generalizing n value r with
  | zero => exact failsOnly_error nofun
  | succ fuel ih =>
    refine (readBit_neverNoState v r).bind fun x => ?_
    obtain ⟨_ | b, r'⟩ := x
    · exact failsOnly_error nofun
    · dsimp only
      split
      · exact failsOnly_ok _
      · split
        · exact failsOnly_error nofun
        · exact ih _ _ _

theorem decodeSymbol_neverNoState (v : View) (c : Canon) (r : Reader) (produced : Nat) :
    NeverNoState (decodeSymbol v c r produced) :=
  failIf_bind_neverNoState fun _ => decodeBits_neverNoState v c produced _ _ _ r

/-! The tables. -/

theorem buildTree_neverNoState (f : Vector Word 256) : NeverNoState (buildTree f) :=
  failIf_bind_neverNoState fun _ => failIf_bind_neverNoState fun _ => failsOnly_ok _

theorem treeDepths_neverNoState (t : Tree) : NeverNoState (treeDepths t) := by
  unfold treeDepths
  dsimp only
  split
  · exact failsOnly_error nofun
  · exact failsOnly_ok _

theorem assignCodes_neverNoState (l : Vector Byte 256) : NeverNoState (assignCodes l) := by
  unfold assignCodes
  split
  · exact failsOnly_error nofun
  · split
    · exact failsOnly_error nofun
    · exact failsOnly_ok _

/-! The frame codec. -/

theorem encodeChecks_neverNoState (s : State) (src len dst cap : Nat) :
    NeverNoState (encodeChecks s src len dst cap) :=
  failIf_bind_neverNoState fun _ => failIf_bind_neverNoState fun _ => failIf_bind_neverNoState fun _ =>
    failIf_bind_neverNoState fun _ => failIf_neverNoState

theorem encodeTables_neverRaisesNoState (s : State) (len : Nat) :
    NeverRaisesNoState (encodeTables s len) := by
  refine FailsOnly.bind ?_ fun s1 => ((assignCodes_neverNoState s1.len).raisedIn s1).bind fun _ =>
    failsOnly_ok _
  unfold encodeLengths
  split
  · exact failsOnly_ok _
  · exact ((buildTree_neverNoState _).raisedIn s).bind fun t => ((treeDepths_neverNoState t).raisedIn _).bind
      fun _ => failsOnly_ok _

theorem encodePayload_neverNoState (v : View) (s : State) (src left i : Nat) (w : Writer) (m : Memory) :
    NeverNoState (encodePayload v s src left i w m) := by
  induction left generalizing i w m with
  | zero => exact failsOnly_ok _
  | succ left ih =>
    exact (memRead_neverNoState v _).havingStored.bind fun _ =>
      (failIf_neverNoState).havingStored.bind fun _ =>
        (writeBits_neverNoState _ _ _ _ _).bind fun x => ih _ x.1 x.2

theorem encodeFrame_neverNoState (v : View) (s : State) (src len dst cap : Nat) :
    NeverNoState (encodeFrame v s src len dst cap) :=
  (memWriteN_neverNoState _ _ _ _).bind fun _ =>
    (encodePayload_neverNoState _ _ _ _ _ _ _).inFrame.havingStored.bind fun x =>
      (flushWriter_neverNoState _ x.1 x.2).inFrame.havingStored.bind fun _ =>
        (memWrite_neverNoState _ _ _ _).havingStored.bind fun _ => failsOnly_ok _

theorem frameEncodeBody_neverRaisesNoState (v : View) (s : State) (src len dst cap : Nat) :
    NeverRaisesNoState (frameEncodeBody v s src len dst cap) :=
  ((encodeChecks_neverNoState s src len dst cap).raisedIn s).bind fun _ =>
    (encodeTables_neverRaisesNoState s len).bind fun s1 =>
      (encodeFrame_neverNoState v s1 src len dst cap).raisedIn s1

theorem decodePayload_neverNoState (v : View) (p : Config.Params) (c : Canon) (dst left i : Nat)
    (r : Reader) (m : Memory) : NeverNoState (decodePayload v p c dst left i r m) := by
  induction left generalizing i r m with
  | zero => exact failsOnly_ok _
  | succ left ih =>
    exact (decodeSymbol_neverNoState v c r i).havingStored.bind fun _ =>
      (memWrite_neverNoState p m _ _).bind fun _ => ih _ _ _

theorem decodeHeader_neverNoState (v : View) (src len dst cap : Nat) :
    NeverNoState (decodeHeader v src len dst cap) :=
  failIf_bind_neverNoState fun _ => failIf_bind_neverNoState fun _ => failIf_bind_neverNoState fun _ =>
    (memReadN_neverNoState v _ _).bind fun _ => failIf_bind_neverNoState fun _ =>
      (memReadN_neverNoState v _ _).bind fun _ => failsOnly_ok _

theorem checkSize_neverNoState (expected : Option (Nat × Nat)) (size : Nat) :
    NeverNoState (checkSize expected size) := by
  cases expected with
  | none => exact failsOnly_ok _
  | some x => exact failIf_neverNoState

theorem decodeFrame_neverNoState (v : View) (s : State) (h : Header) (src len dst cap : Nat) :
    NeverNoState (decodeFrame v s h src len dst cap) :=
  failIf_bind_neverNoState fun _ => failIf_bind_neverNoState fun _ =>
    (decodePayload_neverNoState v _ _ _ _ _ _ _).bind fun _ => failsOnly_ok _

theorem frameDecodeBody_neverRaisesNoState (v : View) (s : State) (src len dst cap : Nat)
    (expected : Option (Nat × Nat)) :
    NeverRaisesNoState (frameDecodeBody v s src len dst cap expected) :=
  ((decodeHeader_neverNoState v src len dst cap).raisedIn s).bind fun h =>
    ((checkSize_neverNoState expected h.size).raisedIn s).bind fun _ =>
      ((assignCodes_neverNoState _).raisedIn _).bind fun _ =>
        (decodeFrame_neverNoState v _ h src len dst cap).raisedIn _

/-! The archive multiplexer. -/

theorem beginWrites_neverNoState (s : State) : NeverNoState (beginWrites s) :=
  failIf_bind_neverNoState fun _ => failIf_bind_neverNoState fun _ => failIf_bind_neverNoState fun _ =>
    memWriteN_neverNoState _ _ _ _

theorem addPath_neverNoState (s : State) : NeverNoState (addPath s) :=
  failIf_bind_neverNoState fun _ => failIf_bind_neverNoState fun _ => failIf_bind_neverNoState fun _ =>
    (memReadN_neverNoState _ _ _).bind fun _ => failIf_bind_neverNoState fun _ =>
      failIf_bind_neverNoState fun _ => failsOnly_ok _

theorem openCount_neverNoState (s : State) : NeverNoState (openCount s) :=
  failIf_bind_neverNoState fun _ => failIf_bind_neverNoState fun _ =>
    (memReadN_neverNoState _ _ _).bind fun _ => failIf_bind_neverNoState fun _ =>
      (memRead_neverNoState _ _).bind fun _ => failIf_bind_neverNoState fun _ =>
        (memReadN_neverNoState _ _ _).bind fun _ => failIf_bind_neverNoState fun _ => failsOnly_ok _

theorem findEntry_neverNoState (v : View) (s : State) (q : List Byte) (left i : Nat) :
    NeverNoState (findEntry v s q left i) := by
  induction left generalizing i with
  | zero => exact failsOnly_error nofun
  | succ left ih =>
    refine (memReadN_neverNoState v _ _).bind fun _ => ?_
    split
    · exact failsOnly_ok _
    · exact ih _

theorem findPath_neverNoState (s : State) : NeverNoState (findPath s) :=
  failIf_bind_neverNoState fun _ => failIf_bind_neverNoState fun _ =>
    (memReadN_neverNoState _ _ _).bind fun q => findEntry_neverNoState _ s q _ _

theorem extractEntry_neverNoState (s : State) : NeverNoState (extractEntry s) :=
  failIf_bind_neverNoState fun _ => failIf_bind_neverNoState fun _ =>
    (memReadN_neverNoState _ _ _).bind fun _ => failIf_bind_neverNoState fun _ => failsOnly_ok _

/-! Every command. -/

theorem brReadbit_neverRaisesNoState (s : State) : NeverRaisesNoState (brReadbit s) := by
  refine ((readBit_neverNoState _ _).raisedIn s).bind fun x => ?_
  obtain ⟨_ | b, r⟩ := x <;> exact failsOnly_ok _

theorem bodyOf_neverRaisesNoState (i : Instr) (s : State) : NeverRaisesNoState (bodyOf i s) := by
  cases i with
  | nop | freqClear | brClose => exact failsOnly_ok _
  | freqLoad =>
    exact failIf_bind_neverRaisesNoState fun _ =>
      ((memReadN_neverNoState _ _ _).raisedIn s).bind fun _ => failsOnly_ok _
  | treeBuild => exact ((buildTree_neverNoState _).raisedIn s).bind fun _ => failsOnly_ok _
  | treeLengths => exact ((treeDepths_neverNoState _).raisedIn s).bind fun _ => failsOnly_ok _
  | canonAssign => exact ((assignCodes_neverNoState _).raisedIn s).bind fun _ => failsOnly_ok _
  | bwOpen | brOpen => exact failIf_bind_neverRaisesNoState fun _ => failsOnly_ok _
  | bwWrite =>
    exact failIf_bind_neverRaisesNoState fun _ =>
      ((writeBits_neverNoState _ _ _ _ _).raisedIn s).bind fun _ => failsOnly_ok _
  | bwSym =>
    exact failIf_bind_neverRaisesNoState fun _ => failIf_bind_neverRaisesNoState fun _ =>
      ((writeBits_neverNoState _ _ _ _ _).raisedIn s).bind fun _ => failsOnly_ok _
  | bwFlush => exact ((flushWriter_neverNoState _ _ _).raisedIn s).bind fun _ => failsOnly_ok _
  | brReadbit => exact brReadbit_neverRaisesNoState s
  | brSym => exact ((decodeSymbol_neverNoState _ _ _ _).raisedIn s).bind fun _ => failsOnly_ok _
  | frameEncode =>
    exact (frameEncodeBody_neverRaisesNoState _ s _ _ _ _).bind fun _ => failsOnly_ok _
  | frameDecode =>
    exact (frameDecodeBody_neverRaisesNoState _ s _ _ _ _ _).bind fun _ => failsOnly_ok _
  | archBegin => exact ((beginWrites_neverNoState s).raisedIn _).bind fun _ => failsOnly_ok _
  | archAdd =>
    exact ((addPath_neverNoState s).raisedIn s).bind fun _ =>
      (frameEncodeBody_neverRaisesNoState _ s _ _ _ _).bind fun _ => failsOnly_ok _
  | archEnd =>
    exact ((memWriteN_neverNoState _ _ _ _).raisedIn s).bind fun _ =>
      ((memWriteN_neverNoState _ _ _ _).raisedIn s).bind fun _ => failsOnly_ok _
  | archOpen => exact ((openCount_neverNoState s).raisedIn _).bind fun _ => failsOnly_ok _
  | archEntry =>
    exact failIf_bind_neverRaisesNoState fun _ =>
      ((memReadN_neverNoState _ _ _).raisedIn s).bind fun _ => failsOnly_ok _
  | archFind => exact ((findPath_neverNoState s).raisedIn s).bind fun _ => failsOnly_ok _
  | archExtract =>
    exact ((extractEntry_neverNoState s).raisedIn s).bind fun _ =>
      (frameDecodeBody_neverRaisesNoState _ s _ _ _ _ _).bind fun _ => failsOnly_ok _

/-- No other code has NO_STATE's number (60_exceptions.md R320). -/
theorem byte_eq_noState_iff {c : ErrCode} : c.byte = 0x57 ↔ c = .noState := by
  cases c <;> decide

theorem opcodeOf_lt_addressLimit (i : Instr) : (opcodeOf i).toNat < addressLimit :=
  (opcodeOf i).isLt.trans (by decide)

theorem exec_of_contextAbsent {i : Instr} {s : State} (hc : contextPresent i s = false) :
    exec i s = .next (failedWith s 0x57 (opcodeOf i).toNat) := by
  rw [exec_eq_runCommand, runCommand_noState hc,
    deliver_eq_failedWith s .noState (opcodeOf_lt_addressLimit i)]
  rfl

theorem exec_errcode_of_contextPresent {i : Instr} {s t : State} (hc : contextPresent i s = true)
    (hs : s.errcode ≠ 0x57) (h : exec i s = .next t) : t.errcode ≠ 0x57 := by
  have hb := bodyOf_commits i s
  rw [exec_eq_runCommand] at h
  obtain ⟨habsent, -⟩ | ⟨-, d, hd, rfl⟩ | ⟨-, r, hr, rfl⟩ := runCommand_cases h
  · exact absurd (hc.symm.trans habsent) nofun
  · rw [hd] at hb
    obtain ⟨hcommits⟩ := hb
    have hcode : d.state.errcode = s.errcode := hcommits.keeps fun _ _ hab =>
      congrArg (·.2.1) hab.errorReport_eq
    exact fun h => hs (hcode.symm.trans h)
  · exact fun h => bodyOf_neverRaisesNoState i s r hr (byte_eq_noState_iff.1 h)

/-! ### The obligations of the host interface -/

/-- Settles O3: an access reaches a register exactly if it is 64 bits wide and at the offset of
one; reset, a bus error and acceptance are its three answers. -/
theorem accessAcceptedIffAlignedAndMapped : Obligations.AccessAcceptedIffAlignedAndMapped := by
  intro s bytes addr v hw
  refine ⟨fun hheld => ?_, fun hheld hno => ?_, fun r hheld hb ho => ?_⟩
  · exact ⟨congrArg _ (mmioRead_held hw hheld), congrArg _ (mmioWrite_held hw v hheld)⟩
  · have hr := accessedReg_eq_none hno
    exact ⟨congrArg _ (mmioRead_refused hw hheld hr), congrArg _ (mmioWrite_refused hw v hheld hr)⟩
  · have hr := accessedReg_eq_some_iff.2 ⟨hb, ho⟩
    exact ⟨⟨_, rfl, mmioRead_accepted hw hheld hr⟩, ⟨_, rfl, mmioWrite_accepted hw v hheld hr⟩⟩

/-- Settles O4: each word by its fields, and BUSY leaves the registers of R141 as they were. -/
theorem readsWhileBusy : Obligations.ReadsWhileBusy := by
  intro s
  refine ⟨controlWordsHold_readReg s, fun hb => ?_, fun hb r hid hctrl hstatus herrinfo harg hres => ?_,
    fun bytes addr => ⟨_, rfl, mmioRead_frame s bytes addr⟩⟩
  · rw [readReg_of_not_busy hb]
    exact ⟨unitWordsHold_regValue s, windowWordsHold_regValue s⟩
  · exact readReg_of_busy hb (readableWhileBusy_eq_false hid hctrl hstatus herrinfo harg hres)

/-- Settles O12: a legal word is one that decodes; the engine's turn runs its command, or reports the word. -/
theorem illegalWordIsBadOpcode : Obligations.IllegalWordIsBadOpcode := by
  intro s ht
  rw [step_of_engineTurn ht, ← badOpcode_eq]
  refine ⟨fun hillegal => engineStep_illegal fun hd => hillegal (exists_decode_eq_ok_iff.1 hd),
    fun hlegal => ?_⟩
  obtain ⟨i, hd⟩ := exists_decode_eq_ok_iff.2 hlegal
  exact ⟨i, decode_eq_ok_iff_eq_encode.1 hd, by rw [engineStep, hd]⟩

/-- Settles O15: a command ends in a completion, which keeps the error report, or in a failed completion. -/
theorem everyCommandCompletes : Obligations.EveryCommandCompletes := by
  intro i s
  obtain ⟨t, h⟩ := exists_exec_eq_next i s
  obtain ⟨hbusy, hdone⟩ := exec_idle h
  obtain ⟨-, -, hirqEn, -⟩ := commandsKeepTheHostSide i s t h
  refine ⟨t, h, hbusy, hdone, by simp [State.irq, hdone, hirqEn], fun herr => ?_⟩
  obtain hreport | ⟨u, e, rfl⟩ := exec_errorReport h
  · simp only [errorReport, Prod.mk.injEq] at hreport
    obtain ⟨herr', hcode, hinfo⟩ := hreport
    exact .inr ⟨herr'.trans herr, hcode, hinfo⟩
  · exact .inl ⟨rfl, rfl, e.code, rfl⟩

/-- Settles O19: the context check comes first, and no step after it raises NO_STATE. -/
theorem missingContextIsNoState : Obligations.MissingContextIsNoState := by
  intro i s
  refine ⟨fun habsent => exec_of_contextAbsent ((contextPresent_eq_false_iff i s).2 habsent),
    fun hpresent hs t h => exec_errcode_of_contextPresent ?_ hs h⟩
  exact Bool.eq_true_of_not_eq_false fun hc => hpresent ((contextPresent_eq_false_iff i s).1 hc)

/-- Settles O5: by what a STATUS write does to each flag. -/
theorem statusWriteClearsFlags : Obligations.StatusWriteClearsFlags := fun s v => writeStatus_eq s v

/-- Settles O6: by the case of each register, busy or not. -/
theorem tableWritesObeyBusy : Obligations.TableWritesObeyBusy := by
  refine ⟨fun _ _ _ => rfl, fun s v n hb => ?_, fun s v n hb => ?_,
    fun s v r hctrl hcmd hstatus harg hfreq hlen => ?_⟩
  · simp [writeReg, hb, BitVec.extractLsb']
  · simp [writeReg, hb, noteOverrun]
  · cases r with
    | ctrl => exact absurd rfl hctrl
    | cmd => exact absurd rfl hcmd
    | status => exact absurd rfl hstatus
    | arg n => exact absurd rfl (harg n)
    | freq n => exact absurd rfl (hfreq n)
    | len n => exact absurd rfl (hlen n)
    | _ => rfl

/-- Settles O7: a CMD write while idle is the issue. -/
theorem cmdWriteIssues : Obligations.CmdWriteIssues := by
  intro s w hb
  have hw : writeReg s .cmd w = s.issue w := by simp [writeReg, hb]
  exact ⟨s.issue w, hw, Bool.and_false _, rfl⟩

/-- Settles O11: the engine's turn is BUSY with the delay over or nothing but WAIT to serve; then the
latched word decides, and otherwise the inputs. -/
theorem stepPerformsTheLatchedCommand : Obligations.StepPerformsTheLatchedCommand := by
  have hperform : ∀ (s : State) (i : Instr), engineTurn s = true → decode s.latch.op = .ok i →
      step s = exec i s := fun s i ht hd => by rw [step_of_engineTurn ht, engineStep, hd]
  refine ⟨fun s i hb ht hd => hperform s i (engineTurn_eq_true hb ht) hd, fun s nbits w i hw => ?_,
    fun s op rest hi h => ?_, fun s hb hi => ?_⟩
  · exact hperform _ i (engineTurn_eq_true rfl (.inl rfl)) (decodeTableWord_eq_some hw)
  · simp [step, engineTurn_eq_false hi h, hi, State.takeInput]
  · simp [step, engineTurn, hb, hi]

/-- Settles O23: NOP commits nothing, and without a write range a completion settles nothing. -/
theorem nopCompletes : Obligations.NopCompletes := by
  intro s
  have hrun : exec .nop s = .next (completed .nop s { state := s }) :=
    (exec_eq_runCommand .nop s).trans (runCommand_ok rfl rfl)
  have hdone : completed .nop s { state := s } = finished s 0 0 0 0 :=
    completed_eq_finished_of_writeRanges_nil rfl rfl
  rw [hrun, hdone]

end Sys2Proof.Machine

namespace Sys2Proof.Machine

/-! PROOFS. The tree builder: the frequency table (spec/41_tree_builder.md, section 1), and how its commands
complete and fail. -/

/-! ### How a command without a write range ends -/

theorem exec_eq_finished {i : Instr} {s : State} {d : Done} (hc : contextPresent i s = true)
    (hw : writeRanges i s = []) (hbody : bodyOf i s = .ok d) (hdraws : d.state.draws = s.draws) :
    exec i s = .next (finished d.state d.r0 d.r1 d.r2 d.r3) := by
  rw [exec_eq_runCommand, runCommand_ok hc hbody, completed_eq_finished_of_writeRanges_nil hw hdraws]

/-- A failure that closes no unit and leaves no byte unspecified changes nothing but the error report. -/
theorem exec_eq_failedWith {i : Instr} {s : State} {c : ErrCode} {info : Nat}
    (hc : contextPresent i s = true) (heffects : failureEffects i s = s) (hranges : failureRanges i s = [])
    (hinfo : info < addressLimit)
    (hbody : bodyOf i s = .error { error := { code := c, info := info }, state := s }) :
    exec i s = .next (failedWith s c.byte info) := by
  rw [exec_eq_runCommand, runCommand_error hc hbody, ← deliver_eq_failedWith s c hinfo]
  simp [State.raise, heffects, hranges, havocAll]

/-- Settles O24: FREQ_CLEAR has no check, and completes with its one commit. -/
theorem freqClearCompletes : Obligations.FreqClearCompletes := fun s =>
  have hbody : bodyOf .freqClear s =
      .ok { state := { s with freq := Vector.replicate 256 0, treeValid := false } } := rfl
  exec_eq_finished rfl rfl hbody rfl

/-! ### Reading the frequency table -/

/-- A read of admitted bytes gives each byte as the engine sees it, free or not. -/
theorem memReadN_eq_viewBytes {v : View} {a n : Nat} (h : ∀ k, k < n → admits v.params.admitR (a + k) = true) :
    memReadN v a n = .ok ((List.range n).map fun k => viewByte v (a + k)) := by
  induction n generalizing a with
  | zero => rfl
  | succ n ih =>
    have hhead : memRead v a = .ok (viewByte v a) := if_pos (h 0 n.succ_pos)
    have htail := ih (a := a + 1) fun k hk => Nat.add_right_comm a k 1 ▸ h (k + 1) (Nat.succ_lt_succ hk)
    refine except_bind_eq_ok.2 ⟨_, hhead, except_bind_eq_ok.2 ⟨_, htail, ?_⟩⟩
    simp [List.range_succ_eq_map, Nat.add_right_comm a, Nat.add_assoc]

/-- What a command without a write range reads at an address without side effect: a free byte where the host
wrote during the command, else the byte in memory. -/
theorem viewByte_viewOf {i : Instr} {s : State} {a : Nat} (k : Nat) (hw : writeRanges i s = [])
    (hside : inRanges s.params.sideRead a = false) :
    viewByte (viewOf i s k) a =
      if a ∈ s.raced then Config.freeByte (s.draws + k) a else readByte s.mem a := by
  split
  · next hr => exact viewByte_raced hr k
  · next hr =>
    have hfuzz : inRanges (viewOf i s k).fuzz a = false := by
      refine Bool.eq_false_iff.2 fun h => hr ?_
      obtain ⟨r, hr, hle, hlt⟩ := inRanges_eq_true.1 h
      simp only [viewOf, hw, byteRanges, List.nil_append, List.mem_map] at hr
      obtain ⟨x, hx, rfl⟩ := hr
      rwa [show a = x by dsimp at hle hlt; omega]
    have hside' : inRanges (viewOf i s k).params.sideRead a = false := hside
    simp only [viewByte, hfuzz, hside']
    rfl

theorem leRead_map_range (g : Nat → Byte) (n : Nat) :
    leRead ((List.range n).map g) = ((List.range n).map fun j => (g j).toNat * 256 ^ j).sum := by
  induction n generalizing g with
  | zero => rfl
  | succ n ih =>
    simp only [List.range_succ_eq_map, List.map_cons, List.map_map, leRead, List.sum_cons, pow_zero, mul_one]
    rw [ih, ← List.sum_map_mul_left]
    simp [Function.comp_def, pow_succ, mul_comm, mul_left_comm]

theorem leRead_lt (bs : List Byte) : leRead bs < 256 ^ bs.length := by
  induction bs with
  | nil => simp [leRead]
  | cons b bs ih => have := b.isLt; simp only [leRead, List.length_cons, pow_succ]; omega

/-- Entry `k` of a table read from memory is the little-endian count at offset `8k`. -/
theorem freqOfBytes_toNat (g : Nat → Byte) (k : Fin 256) :
    (freqOfBytes ((List.range 2048).map g))[k].toNat =
      ((List.range 8).map fun j => (g (8 * k.val + j)).toNat * 256 ^ j).sum := by
  have hcut : (((List.range 2048).map g).drop (8 * k.val)).take 8 =
      (List.range 8).map fun j => g (8 * k.val + j) := by
    refine List.ext_getElem (by simp; omega) fun j _ _ => ?_
    simp
  rw [← leRead_map_range (fun j => g (8 * k.val + j)), ← hcut]
  simp only [freqOfBytes, Fin.getElem_fin, getElem_tabulate, BitVec.toNat_ofNat]
  refine Nat.mod_eq_of_lt ((leRead_lt _).trans_le ?_)
  rw [hcut]
  simp

/-- A table that is read whole becomes FREQ. -/
theorem exec_freqLoad_ok {s : State} {bs : List Byte} (hrange : a0 s + 2048 ≤ addressLimit)
    (hread : memReadN (viewOf .freqLoad s 0) (a0 s) 2048 = .ok bs) :
    exec .freqLoad s = .next (finished { s with freq := freqOfBytes bs, treeValid := false } 0 0 0 0) := by
  have hbody : bodyOf .freqLoad s = .ok { state := { s with freq := freqOfBytes bs, treeValid := false } } :=
    except_bind_eq_ok.2 ⟨(), raisedIn_eq_ok.2 (checkRange_eq_ok.2 hrange),
      except_bind_eq_ok.2 ⟨bs, raisedIn_eq_ok.2 hread, rfl⟩⟩
  exact exec_eq_finished rfl rfl hbody rfl

/-- FREQ_LOAD fails with the error of its read. -/
theorem exec_freqLoad_error {s : State} {c : ErrCode} {info : Nat} (hrange : a0 s + 2048 ≤ addressLimit)
    (hinfo : info < addressLimit)
    (hread : memReadN (viewOf .freqLoad s 0) (a0 s) 2048 = .error { code := c, info := info }) :
    exec .freqLoad s = .next (failedWith s c.byte info) := by
  have hbody : bodyOf .freqLoad s = .error { error := { code := c, info := info }, state := s } :=
    except_bind_eq_error.2 (.inr ⟨(), raisedIn_eq_ok.2 (checkRange_eq_ok.2 hrange),
      except_bind_eq_error.2 (.inl (raisedIn_eq_error.2 ⟨_, hread, rfl⟩))⟩)
  exact exec_eq_failedWith rfl rfl rfl hinfo hbody

/-- Settles O25: a readable table is read byte by byte as the engine sees it; a byte that is not admitted
stops the read. -/
theorem freqLoadReadsTheTable : Obligations.FreqLoadReadsTheTable := by
  intro s hrange
  refine ⟨fun hread => ⟨_, exec_freqLoad_ok hrange (memReadN_eq_viewBytes fun k hk => (hread k hk).1),
      fun k => ?_⟩, fun n hn hok hbad =>
    exec_freqLoad_error hrange (by omega) (memReadN_ioRead hn hok hbad)⟩
  rw [freqOfBytes_toNat]
  congr 1
  refine List.map_congr_left fun j hj => ?_
  have hj' : 8 * k.val + j < 2048 := by have := List.mem_range.1 hj; omega
  rw [viewByte_viewOf 0 rfl (hread _ hj').2]
  simp only [Nat.add_assoc, Nat.add_zero]

/-! ### The active symbols -/

/-- The symbols of nonzero frequency, in ascending value (41_tree_builder.md R172). -/
def activeSymbols (f : Vector Word 256) : List (Fin 256) := (List.finRange 256).filter fun k => f[k] ≠ 0

@[simp] theorem mem_activeSymbols {f : Vector Word 256} {k : Fin 256} : k ∈ activeSymbols f ↔ f[k] ≠ 0 := by
  simp [activeSymbols]

/-- A table of 256 entries, entry by entry. -/
theorem toList_eq_map_finRange {α : Type} (v : Vector α 256) :
    v.toList = (List.finRange 256).map fun k => v[k] := by
  refine List.ext_getElem (by simp) fun n _ _ => ?_
  simp

theorem leafNodes_eq_map (f : Vector Word 256) :
    leafNodes f = (activeSymbols f).map fun k => leafNode f[k] k.val := by
  have hzip : f.toList.zipIdx = (List.finRange 256).map fun k => (f[k], k.val) :=
    List.ext_getElem (by simp) fun n _ _ => by simp
  rw [leafNodes, hzip, activeSymbols, List.filterMap_map]
  induction List.finRange 256 with
  | nil => rfl
  | cons k ks ih => by_cases hk : f[k] = 0 <;> simp_all

theorem length_filter_ne_zero (f : Vector Word 256) :
    (f.toList.filter (· ≠ 0)).length = (activeSymbols f).length := by
  simp [toList_eq_map_finRange, activeSymbols, List.filter_map, Function.comp_def]

/-- The sum of FREQ is the sum over the active symbols. -/
theorem freqSum_eq_sum_activeSymbols (f : Vector Word 256) :
    freqSum f = ((activeSymbols f).map fun k => f[k].toNat).sum := by
  rw [freqSum, toList_eq_map_finRange, activeSymbols, List.map_map]
  induction List.finRange 256 with
  | nil => rfl
  | cons k ks ih => by_cases hk : f[k] = 0 <;> simp_all

theorem activeSymbols_eq_nil {f : Vector Word 256} (h : ∀ k : Fin 256, f[k] = 0) : activeSymbols f = [] :=
  List.filter_eq_nil_iff.2 fun k _ => by simpa using h k

theorem activeSymbols_pairwise_lt (f : Vector Word 256) : (activeSymbols f).Pairwise (· < ·) :=
  (List.pairwise_lt_finRange 256).filter _

theorem length_activeSymbols_le (f : Vector Word 256) : (activeSymbols f).length ≤ 256 :=
  (List.length_filter_le _ _).trans (List.length_finRange (n := 256)).le

/-! ### The checks of TREE_BUILD -/

theorem buildTree_freqOverflow {f : Vector Word 256} (h : addressLimit ≤ freqSum f) :
    buildTree f = .error { code := .freqOverflow, info := 0 } :=
  except_bind_eq_error.2 (.inl (failIf_eq_error.2 ⟨decide_eq_true h, rfl⟩))

theorem buildTree_emptyInput {f : Vector Word 256} (h : activeSymbols f = []) :
    buildTree f = .error { code := .emptyInput, info := 0 } := by
  have hsum : failIf (decide (addressLimit ≤ freqSum f)) .freqOverflow 0 = .ok () :=
    failIf_eq_ok.2 (by simp [freqSum_eq_sum_activeSymbols, h])
  have hlen : decide ((leafNodes f).length = 0) = true := by simp [leafNodes_eq_map, h]
  exact except_bind_eq_error.2 (.inr ⟨_, hsum, except_bind_eq_error.2 (.inl (failIf_eq_error.2 ⟨hlen, rfl⟩))⟩)

/-- TREE_BUILD fails with the error of its body. -/
theorem exec_treeBuild_error {s : State} {c : ErrCode}
    (h : buildTree s.freq = .error { code := c, info := 0 }) :
    exec .treeBuild s = .next (failedWith s c.byte 0) :=
  exec_eq_failedWith rfl rfl rfl (by decide)
    (except_bind_eq_error.2 (.inl (raisedIn_eq_error.2 ⟨_, h, rfl⟩)))

/-- Settles O28: the two checks of TREE_BUILD, the sum before the number of active symbols. -/
theorem treeBuildRefusesEmptyAndOverflow : Obligations.TreeBuildRefusesEmptyAndOverflow := fun _ =>
  ⟨fun hsum => exec_treeBuild_error (buildTree_freqOverflow hsum),
    fun hzero => exec_treeBuild_error (buildTree_emptyInput (activeSymbols_eq_nil hzero))⟩

end Sys2Proof.Machine

namespace Sys2Proof.Machine

/-! PROOFS. The tree builder: the merges of TREE_BUILD (spec/41_tree_builder.md R173), first as the model's
loop performs them and then as a relation between queues, from which the properties of the tree follow. -/

/-! ### The smallest key -/

theorem keyLess_iff {x y : Nat × Nat} : keyLess x y = true ↔ x.1 < y.1 ∨ (x.1 = y.1 ∧ x.2 < y.2) :=
  decide_eq_true_iff

theorem keyLess_trans {x y z : Nat × Nat} (hxy : keyLess x y = true) (hyz : keyLess y z = true) :
    keyLess x z = true := by
  rw [keyLess_iff] at *
  omega

theorem keyLess_of_not {x y : Nat × Nat} (hne : x ≠ y) (h : ¬keyLess x y = true) : keyLess y x = true := by
  rw [Ne, Prod.ext_iff] at hne
  rw [keyLess_iff] at *
  omega

theorem popMin_perm (q : Nat × Nat) (qs : List (Nat × Nat)) :
    ((popMin q qs).1 :: (popMin q qs).2).Perm (q :: qs) := by
  induction qs generalizing q with
  | nil => exact .refl _
  | cons r rs ih =>
    simp only [popMin]
    split
    · exact .refl _
    · exact (List.Perm.swap _ _ _).trans ((ih r).cons q)

/-- Where no key occurs twice, the chosen key is below all the others. -/
theorem popMin_least {q : Nat × Nat} {qs : List (Nat × Nat)} (hnodup : (q :: qs).Nodup) :
    ∀ z ∈ (popMin q qs).2, keyLess (popMin q qs).1 z = true := by
  induction qs generalizing q with
  | nil => exact nofun
  | cons r rs ih =>
    have hleast := ih (List.nodup_cons.1 hnodup).2
    have hperm := popMin_perm r rs
    simp only [popMin]
    split
    · next hq =>
      intro z hz
      obtain rfl | hz := List.mem_cons.1 (hperm.mem_iff.2 hz)
      · exact hq
      · exact keyLess_trans hq (hleast z hz)
    · next hq =>
      intro z hz
      obtain rfl | hz := List.mem_cons.1 hz
      · have hmem : (popMin r rs).1 ∈ r :: rs := hperm.mem_iff.1 (List.mem_cons_self ..)
        exact keyLess_of_not (fun heq => (List.nodup_cons.1 hnodup).1 (heq ▸ hmem)) hq
      · exact hleast z hz

/-! ### The merges as a relation -/

/-- One merge: the keys of its LEFT and of its RIGHT. -/
abbrev Merge := (Nat × Nat) × (Nat × Nat)

/-- The weight of the node a merge makes. -/
def Merge.weight (m : Merge) : Nat := m.1.1 + m.2.1

/-- The node a merge makes. -/
def Merge.node (m : Merge) : Node := innerNode m.weight m.1.2 m.2.2

/-- From the queue `q`, with `n` the next free id, the merges `ms` lead to the last key `r`: each takes the
smallest key and the next, and puts the key of the node it makes into the queue (41_tree_builder.md R173).
Where in the queue a key stands plays no part. -/
inductive Merges : List (Nat × Nat) → Nat → List Merge → Nat × Nat → Prop
  | done (r : Nat × Nat) (n : Nat) : Merges [r] n [] r
  | merge {q rest : List (Nat × Nat)} {n : Nat} {m : Merge} {ms : List Merge} {r : Nat × Nat}
      (hperm : q.Perm (m.1 :: m.2 :: rest)) (hleft : keyLess m.1 m.2 = true)
      (hright : ∀ z ∈ rest, keyLess m.2 z = true) (hrest : Merges ((m.weight, n) :: rest) (n + 1) ms r) :
      Merges q n (m :: ms) r

/-- The ids in a queue occur once each, and are below the next free one. -/
def FreshIds (q : List (Nat × Nat)) (n : Nat) : Prop := (q.map Prod.snd).Nodup ∧ ∀ p ∈ q, p.2 < n

theorem FreshIds.perm {q q' : List (Nat × Nat)} {n : Nat} (h : FreshIds q n) (hp : q.Perm q') :
    FreshIds q' n :=
  ⟨(hp.map _).nodup_iff.1 h.1, fun p hq => h.2 p (hp.mem_iff.2 hq)⟩

theorem FreshIds.tail {p : Nat × Nat} {q : List (Nat × Nat)} {n : Nat} (h : FreshIds (p :: q) n) :
    FreshIds q n :=
  ⟨(List.nodup_cons.1 h.1).2, fun p hp => h.2 p (List.mem_cons_of_mem _ hp)⟩

/-- The next free id joins the queue. -/
theorem FreshIds.cons {q : List (Nat × Nat)} {n : Nat} (h : FreshIds q n) (w : Nat) :
    FreshIds ((w, n) :: q) (n + 1) := by
  refine ⟨List.nodup_cons.2 ⟨fun hn => ?_, h.1⟩, fun p hp => ?_⟩
  · obtain ⟨p, hp, heq⟩ := List.mem_map.1 hn
    exact absurd (h.2 p hp) (by omega)
  · obtain rfl | hp := List.mem_cons.1 hp
    · exact Nat.lt_succ_self n
    · exact Nat.lt_succ_of_lt (h.2 p hp)

/-- One round of TREE_BUILD's loop is such a merge, and appends its node to the arena. -/
theorem mergeAll_succ (fuel : Nat) {p p' : Nat × Nat} {ps : List (Nat × Nat)} (nodes : List Node)
    (hnodup : (p :: p' :: ps).Nodup) :
    ∃ (m : Merge) (rest : List (Nat × Nat)), (p :: p' :: ps).Perm (m.1 :: m.2 :: rest) ∧
      keyLess m.1 m.2 = true ∧ (∀ z ∈ rest, keyLess m.2 z = true) ∧
      mergeAll (fuel + 1) (p :: p' :: ps) nodes =
        mergeAll fuel ((m.weight, nodes.length) :: rest) (nodes ++ [m.node]) := by
  have hperm := popMin_perm p (p' :: ps)
  have hleast := popMin_least hnodup
  simp only [mergeAll]
  split
  next hnil => exact absurd hperm.length_eq (by simp [hnil])
  next z zs hcons =>
    rw [hcons] at hperm hleast
    have hperm' := popMin_perm z zs
    have hnodup' := (List.nodup_cons.1 (hperm.nodup_iff.2 hnodup)).2
    exact ⟨((popMin p (p' :: ps)).1, (popMin z zs).1), (popMin z zs).2, hperm.symm.trans (hperm'.symm.cons _),
      hleast _ (hperm'.mem_iff.1 (List.mem_cons_self ..)), popMin_least hnodup', rfl⟩

/-- The loop of TREE_BUILD performs such merges, down to one key. -/
theorem mergeAll_merges {fuel : Nat} {q : List (Nat × Nat)} {nodes : List Node} (hne : q ≠ [])
    (hfuel : q.length ≤ fuel + 1) (hfresh : FreshIds q nodes.length) :
    ∃ ms r, Merges q nodes.length ms r ∧ mergeAll fuel q nodes = (nodes ++ ms.map Merge.node, r.2) := by
  induction fuel generalizing q nodes with
  | zero =>
    match q, hne, hfuel with
    | [p], _, _ => exact ⟨[], p, .done p _, by simp [mergeAll]⟩
  | succ fuel ih =>
    match q, hne, hfuel with
    | [p], _, _ => exact ⟨[], p, .done p _, by simp [mergeAll]⟩
    | p :: p' :: ps, _, hfuel =>
      obtain ⟨m, rest, hperm, hleft, hright, hround⟩ := mergeAll_succ fuel nodes hfresh.1.of_map
      have hlen : ps.length = rest.length := by simpa using hperm.length_eq
      have hfuel' : ((m.weight, nodes.length) :: rest).length ≤ fuel + 1 := by
        simp only [List.length_cons] at hfuel ⊢
        omega
      have hfresh' : FreshIds ((m.weight, nodes.length) :: rest) (nodes ++ [m.node]).length := by
        simpa using (hfresh.perm hperm).tail.tail.cons m.weight
      obtain ⟨ms, r, hms, heq⟩ := ih (List.cons_ne_nil _ _) hfuel' hfresh'
      rw [List.length_append] at hms
      exact ⟨m :: ms, r, .merge hperm hleft hright hms, by rw [hround, heq, List.append_assoc]; rfl⟩

/-! ### What the merges keep -/

/-- The ids that merges take, two each. -/
def takenIds (ms : List Merge) : List Nat := ms.flatMap fun m => [m.1.2, m.2.2]

theorem mem_takenIds {ms : List Merge} {id : Nat} : id ∈ takenIds ms ↔ ∃ m ∈ ms, id = m.1.2 ∨ id = m.2.2 := by
  simp [takenIds]

theorem takenIds_cons (m : Merge) (ms : List Merge) : takenIds (m :: ms) = m.1.2 :: m.2.2 :: takenIds ms := rfl

section
variable {q : List (Nat × Nat)} {n : Nat} {ms : List Merge} {r : Nat × Nat}

/-- A property of the nodes made from `n` on: the node of the first merge has it, and the rest from `n + 1`
on. -/
theorem forall_getElem?_cons {P : Nat → Merge → Prop} {m : Merge} :
    (∀ i m', (m :: ms)[i]? = some m' → P (n + i) m') ↔
      P n m ∧ ∀ i m', ms[i]? = some m' → P (n + 1 + i) m' := by
  refine ⟨fun h => ⟨h 0 m rfl, fun i m' hi => ?_⟩, fun h i m' hi => ?_⟩
  · rw [Nat.add_right_comm]
    exact h (i + 1) m' hi
  · cases i with
    | zero => exact Option.some.inj hi ▸ h.1
    | succ i =>
      rw [← Nat.add_assoc, Nat.add_right_comm]
      exact h.2 i m' hi

theorem Merges.length_eq (h : Merges q n ms r) : ms.length + 1 = q.length := by
  induction h with
  | done => rfl
  | merge hperm _ _ _ ih => simpa [hperm.length_eq] using ih

/-- The last node made is the root, unless the queue held the root alone. -/
theorem Merges.root_eq (h : Merges q n ms r) (hlast : q.length = 1 → ∀ p ∈ q, p.2 + 1 = n) :
    r.2 + 1 = n + ms.length := by
  induction h with
  | done r n => exact hlast rfl r (List.mem_cons_self ..)
  | @merge _ rest n m ms r _ _ _ _ ih =>
    have hlast' : ((m.weight, n) :: rest).length = 1 → ∀ p ∈ (m.weight, n) :: rest, p.2 + 1 = n + 1 := by
      intro hone p hp
      rw [List.length_eq_zero_iff.1 (Nat.succ.inj hone)] at hp
      exact List.mem_singleton.1 hp ▸ rfl
    rw [ih hlast', List.length_cons, Nat.add_right_comm, Nat.add_assoc]

/-- A merge keeps the sum of the weights in the queue. -/
theorem Merges.root_weight (h : Merges q n ms r) : r.1 = (q.map Prod.fst).sum := by
  induction h with
  | done => rfl
  | merge hperm _ _ _ ih => rw [ih, (hperm.map _).sum_eq]; simp [Merge.weight, Nat.add_assoc]

/-- No merge makes a node heavier than the whole queue. -/
theorem Merges.weight_le (h : Merges q n ms r) : ∀ m ∈ ms, m.weight ≤ (q.map Prod.fst).sum := by
  induction h with
  | done => exact nofun
  | @merge _ rest _ m _ _ hperm _ _ _ ih =>
    rw [(hperm.map _).sum_eq]
    intro m' hm'
    obtain rfl | hm' := List.mem_cons.1 hm'
    · simp [Merge.weight, ← Nat.add_assoc]
    · simpa [Merge.weight, Nat.add_assoc] using ih m' hm'

/-- No merge takes a weight below the smallest in the queue. -/
theorem Merges.le_weights {b : Nat} (h : Merges q n ms r) (hq : ∀ p ∈ q, b ≤ p.1) :
    ∀ m ∈ ms, b ≤ m.1.1 ∧ b ≤ m.2.1 := by
  induction h with
  | done => exact nofun
  | merge hperm _ _ _ ih =>
    simp only [hperm.mem_iff, List.mem_cons, forall_eq_or_imp] at hq
    obtain ⟨hx, hy, hrest⟩ := hq
    refine List.forall_mem_cons.2 ⟨⟨hx, hy⟩, ih (List.forall_mem_cons.2 ⟨?_, hrest⟩)⟩
    exact hx.trans (Nat.le_add_right ..)

/-- Later merges make no lighter nodes: both weights a later merge takes are at least the larger weight of an
earlier one. -/
theorem Merges.weights_ascend (h : Merges q n ms r) : ms.Pairwise fun m m' => m.weight ≤ m'.weight := by
  induction h with
  | done => exact .nil
  | @merge _ rest n m _ _ _ hleft hright hrest ih =>
    refine .cons (fun m' hm' => ?_) ih
    have hle : ∀ p ∈ (m.weight, n) :: rest, m.2.1 ≤ p.1 := by
      refine List.forall_mem_cons.2 ⟨Nat.le_add_left .., fun p hp => ?_⟩
      have := keyLess_iff.1 (hright p hp)
      omega
    obtain ⟨hx, hy⟩ := hrest.le_weights hle m' hm'
    have := keyLess_iff.1 hleft
    simp only [Merge.weight]
    omega

/-- A merge takes two ids from the queue and puts the next free one in. -/
theorem ids_perm_of_merge {rest : List (Nat × Nat)} {m : Merge} (hperm : q.Perm (m.1 :: m.2 :: rest)) (i : Nat) :
    List.Perm (m.1.2 :: m.2.2 :: (((m.weight, n) :: rest).map Prod.snd ++ List.range' (n + 1) i))
      (q.map Prod.snd ++ List.range' n (i + 1)) :=
  ((List.perm_middle.symm.cons _).cons _).trans
    ((hperm.symm.map Prod.snd).append_right (n :: List.range' (n + 1) i))

/-- Every id but the root's is taken once: those of the queue, and those of the nodes made. -/
theorem Merges.takenIds_perm (h : Merges q n ms r) :
    (r.2 :: takenIds ms).Perm (q.map Prod.snd ++ List.range' n ms.length) := by
  induction h with
  | done => exact .refl _
  | @merge q rest n m ms r hperm _ _ _ ih =>
    have hroot : List.Perm (r.2 :: takenIds (m :: ms)) (m.1.2 :: m.2.2 :: r.2 :: takenIds ms) :=
      (List.perm_middle (l₁ := [m.1.2, m.2.2])).symm
    exact hroot.trans (((ih.cons _).cons _).trans (ids_perm_of_merge hperm ms.length))

/-- What the node of each merge has joined from its children, the root has joined from the whole queue. -/
theorem Merges.flatMap_perm {α : Type} {g : Nat → List α} (h : Merges q n ms r)
    (hg : ∀ i m, ms[i]? = some m → g (n + i) = g m.1.2 ++ g m.2.2) :
    ((q.map Prod.snd).flatMap g).Perm (g r.2) := by
  induction h with
  | done => simp
  | @merge q rest n m ms r hperm _ _ _ ih =>
    obtain ⟨hm, hms⟩ := (forall_getElem?_cons (P := fun id m' => g id = g m'.1.2 ++ g m'.2.2)).1 hg
    refine (((hperm.map _).flatMap_right g).trans (.of_eq ?_)).trans (ih hms)
    simp [hm]

/-- Where the arena holds the weights of the queue and of the nodes made, it holds that of the root. -/
theorem Merges.root_key {wt : Nat → Nat} (h : Merges q n ms r) (hq : ∀ p ∈ q, wt p.2 = p.1)
    (hwt : ∀ i m, ms[i]? = some m → wt (n + i) = m.weight) : wt r.2 = r.1 := by
  induction h with
  | done => exact hq _ (List.mem_cons_self ..)
  | merge hperm _ _ _ ih =>
    obtain ⟨hwt₀, hwt⟩ := (forall_getElem?_cons (P := fun id m' => wt id = m'.weight)).1 hwt
    exact ih (List.forall_mem_cons.2 ⟨hwt₀, fun p hp => hq p (hperm.mem_iff.2 (by simp [hp]))⟩) hwt

/-- The queue a merge takes its keys from: they are the smallest, and the ids are those not taken before. -/
theorem Merges.queue_at {wt : Nat → Nat} (h : Merges q n ms r) (hq : ∀ p ∈ q, wt p.2 = p.1)
    (hwt : ∀ i m, ms[i]? = some m → wt (n + i) = m.weight) {i : Nat} {m : Merge} (hi : ms[i]? = some m) :
    ∃ rest, keyLess m.1 m.2 = true ∧ (∀ z ∈ rest, keyLess m.2 z = true) ∧
      (∀ p ∈ m.1 :: m.2 :: rest, wt p.2 = p.1) ∧
      ((m.1 :: m.2 :: rest).map Prod.snd ++ takenIds (ms.take i)).Perm
        (q.map Prod.snd ++ List.range' n i) := by
  induction h generalizing i with
  | done => exact absurd hi (by simp)
  | @merge q rest n m₀ ms r hperm hleft hright _ ih =>
    have hq' : ∀ p ∈ m₀.1 :: m₀.2 :: rest, wt p.2 = p.1 := fun p hp => hq p (hperm.mem_iff.2 hp)
    obtain ⟨hwt₀, hwt⟩ := (forall_getElem?_cons (P := fun id m' => wt id = m'.weight)).1 hwt
    cases i with
    | zero =>
      obtain rfl : m₀ = m := Option.some.inj hi
      exact ⟨rest, hleft, hright, hq', by simpa [takenIds] using hperm.symm.map Prod.snd⟩
    | succ i =>
      obtain ⟨rest', hl, hr, hw, hp⟩ := ih (List.forall_mem_cons.2 ⟨hwt₀,
        fun p hp => hq' p (List.mem_cons_of_mem _ (List.mem_cons_of_mem _ hp))⟩) hwt hi
      refine ⟨rest', hl, hr, hw, ?_⟩
      have htaken : List.Perm ((m.1 :: m.2 :: rest').map Prod.snd ++ takenIds (m₀ :: ms.take i))
          (m₀.1.2 :: m₀.2.2 :: ((m.1 :: m.2 :: rest').map Prod.snd ++ takenIds (ms.take i))) := by
        simpa [takenIds_cons] using
          List.perm_append_comm_assoc ((m.1 :: m.2 :: rest').map Prod.snd) [m₀.1.2, m₀.2.2] _
      exact htaken.trans (((hp.cons _).cons _).trans (ids_perm_of_merge hperm i))

end

end Sys2Proof.Machine

namespace Sys2Proof.Machine

/-! PROOFS. The tree builder: the tree TREE_BUILD leaves (spec/41_tree_builder.md R172 to R175). -/

/-! ### The arena -/

theorem getElem?_link_treeOfNodes (nodes : List Node) (root k : Nat) {n : Nat} (hn : n < 511) :
    (treeOfNodes nodes root k).link[n]? = some ((nodes[n]?.map Node.link).getD Link.zero) := by
  simp [treeOfNodes, hn]

theorem getElem?_weight_treeOfNodes (nodes : List Node) (root k : Nat) {n : Nat} (hn : n < 511) :
    (treeOfNodes nodes root k).weight[n]? = some (BitVec.ofNat 64 ((nodes[n]?.map Node.weight).getD 0)) := by
  simp [treeOfNodes, hn]

theorem toNat_weight_eq_nodeWeight (t : Tree) (n : Fin 511) : t.weight[n].toNat = nodeWeight t n.val := by
  simp [nodeWeight]

theorem keyBelow_iff {t : Tree} {x y : Nat} :
    KeyBelow t x y ↔ keyLess (nodeWeight t x, x) (nodeWeight t y, y) = true :=
  (keyLess_iff (x := (nodeWeight t x, x)) (y := (nodeWeight t y, y))).symm

/-! ### The keys of the leaves -/

theorem leafKeys_map_snd (leaves : List Node) : (leafKeys leaves).map Prod.snd = List.range leaves.length := by
  simp only [leafKeys, List.map_map, List.range_eq_range']
  exact List.zipIdx_map_snd 0 leaves

theorem length_leafKeys (leaves : List Node) : (leafKeys leaves).length = leaves.length := by simp [leafKeys]

theorem mem_leafKeys {leaves : List Node} {p : Nat × Nat} :
    p ∈ leafKeys leaves ↔ ∃ x, leaves[p.2]? = some x ∧ x.weight = p.1 := by
  simp only [leafKeys, List.mem_map, List.mem_zipIdx_iff_getElem?]
  exact ⟨fun ⟨x, hx, hp⟩ => hp ▸ ⟨x.1, hx, rfl⟩, fun ⟨x, hx, hw⟩ => ⟨(x, p.2), hx, Prod.ext hw rfl⟩⟩

theorem leafKeys_map_fst (leaves : List Node) : (leafKeys leaves).map Prod.fst = leaves.map Node.weight := by
  have hcomp : (leafKeys leaves).map Prod.fst = (leaves.zipIdx.map Prod.fst).map Node.weight := by
    rw [leafKeys, List.map_map, List.map_map]
    rfl
  rw [hcomp, List.zipIdx_map_fst]

theorem leafKeys_freshIds (leaves : List Node) : FreshIds (leafKeys leaves) leaves.length := by
  refine ⟨leafKeys_map_snd leaves ▸ List.nodup_range, fun p hp => ?_⟩
  exact List.mem_range.1 (leafKeys_map_snd leaves ▸ List.mem_map_of_mem hp)

theorem length_leafNodes (f : Vector Word 256) : (leafNodes f).length = (activeSymbols f).length := by
  rw [leafNodes_eq_map, List.length_map]

/-- The ids of the leaves and those of the first `i` nodes made are the first ids. -/
theorem leafKeys_ids_append (f : Vector Word 256) (i : Nat) :
    (leafKeys (leafNodes f)).map Prod.snd ++ List.range' (activeSymbols f).length i =
      List.range ((activeSymbols f).length + i) := by
  rw [leafKeys_map_snd, length_leafNodes, List.range_eq_range', List.range_eq_range',
    ← List.range'_append_1, Nat.zero_add]

theorem sum_leafKeys (f : Vector Word 256) : ((leafKeys (leafNodes f)).map Prod.fst).sum = freqSum f := by
  rw [leafKeys_map_fst, leafNodes_eq_map, List.map_map, freqSum_eq_sum_activeSymbols]
  rfl

/-! ### The tree of FREQ -/

/-- `t` is the tree that the merges `ms`, down to the key `r`, make of the leaves of `f`. -/
structure MergedTree (f : Vector Word 256) (t : Tree) (ms : List Merge) (r : Nat × Nat) : Prop where
  sum_lt : freqSum f < addressLimit
  active_pos : 0 < (activeSymbols f).length
  merges : Merges (leafKeys (leafNodes f)) (activeSymbols f).length ms r
  tree_eq : t = treeOfNodes (leafNodes f ++ ms.map Merge.node) r.2 (activeSymbols f).length

/-- A table with active symbols and a sum below 2^64 gives a tree. -/
theorem exists_buildTree_eq_ok {f : Vector Word 256} (hsum : freqSum f < addressLimit)
    (hpos : 0 < (activeSymbols f).length) : ∃ t ms r, buildTree f = .ok t ∧ MergedTree f t ms r := by
  have hlen := length_leafNodes f
  have hne : leafKeys (leafNodes f) ≠ [] := by
    rw [← List.length_pos_iff, length_leafKeys, hlen]
    exact hpos
  obtain ⟨ms, r, hms, heq⟩ := mergeAll_merges (fuel := (leafNodes f).length) hne
    ((length_leafKeys _).le.trans (Nat.le_succ _)) (leafKeys_freshIds _)
  refine ⟨treeOfNodes (leafNodes f ++ ms.map Merge.node) r.2 (activeSymbols f).length, ms, r,
    except_bind_eq_ok.2 ⟨(), failIf_eq_ok.2 (decide_eq_false (by omega)),
      except_bind_eq_ok.2 ⟨(), failIf_eq_ok.2 (decide_eq_false (by omega)), ?_⟩⟩,
    hsum, hpos, hlen ▸ hms, rfl⟩
  rw [heq, hlen]

/-- Every tree TREE_BUILD leaves comes of such merges. -/
theorem mergedTree_of_buildTree {f : Vector Word 256} {t : Tree} (h : buildTree f = .ok t) :
    ∃ ms r, MergedTree f t ms r := by
  have hsum : freqSum f < addressLimit := Nat.lt_of_not_le fun hle => by
    rw [buildTree_freqOverflow hle] at h
    exact nomatch h
  have hpos : 0 < (activeSymbols f).length := List.length_pos_iff.2 fun hnil => by
    rw [buildTree_emptyInput hnil] at h
    exact nomatch h
  obtain ⟨t', ms, r, h', hm⟩ := exists_buildTree_eq_ok hsum hpos
  exact ⟨ms, r, Except.ok.inj (h'.symm.trans h) ▸ hm⟩

/-- An internal node of the arena is the node of a merge. -/
theorem exists_merge {f : Vector Word 256} {n : Nat} {ms : List Merge} (hle : (activeSymbols f).length ≤ n)
    (hlt : n < (activeSymbols f).length + ms.length) :
    ∃ i m, ms[i]? = some m ∧ n = (activeSymbols f).length + i := by
  obtain ⟨i, rfl⟩ := Nat.exists_eq_add_of_le hle
  exact ⟨i, ms[i], List.getElem?_eq_getElem (Nat.lt_of_add_lt_add_left hlt), rfl⟩

section
variable {f : Vector Word 256} {t : Tree} {ms : List Merge} {r : Nat × Nat} (h : MergedTree f t ms r)
include h

/-! The counts of TREE_INFO. -/

theorem MergedTree.length_merges : ms.length + 1 = (activeSymbols f).length := by
  rw [h.merges.length_eq, length_leafKeys, length_leafNodes]

theorem MergedTree.root_succ_eq : r.2 + 1 = (activeSymbols f).length + ms.length := by
  refine h.merges.root_eq fun hone p hp => ?_
  rw [length_leafKeys] at hone
  have hlt := (leafKeys_freshIds _).2 p hp
  rw [← length_leafNodes]
  omega

theorem MergedTree.active_eq : t.active.toNat = (activeSymbols f).length := by
  have := length_activeSymbols_le f
  rw [h.tree_eq]
  exact Nat.mod_eq_of_lt (by omega)

theorem MergedTree.nodeCount_eq : t.nodeCount.toNat = (activeSymbols f).length + ms.length := by
  have := length_activeSymbols_le f
  have := h.length_merges
  rw [h.tree_eq]
  simp only [treeOfNodes, List.length_append, List.length_map, length_leafNodes, BitVec.toNat_ofNat]
  exact Nat.mod_eq_of_lt (by omega)

theorem MergedTree.root_eq : t.root.toNat = r.2 := by
  have := length_activeSymbols_le f
  have := h.length_merges
  have := h.root_succ_eq
  rw [h.tree_eq]
  exact Nat.mod_eq_of_lt (by omega)

/-! The nodes: leaves, merged nodes, and none. -/

theorem MergedTree.leaf_at {n : Nat} {k : Fin 256} (hk : (activeSymbols f)[n]? = some k) :
    t.link[n]? = some (leafNode f[k] k.val).link ∧ t.weight[n]? = some f[k] := by
  have hn := (List.getElem?_eq_some_iff.1 hk).1
  have := length_activeSymbols_le f
  have hnode : (leafNodes f ++ ms.map Merge.node)[n]? = some (leafNode f[k] k.val) := by
    rw [List.getElem?_append_left (by rwa [length_leafNodes]), leafNodes_eq_map, List.getElem?_map, hk]
    rfl
  rw [h.tree_eq, getElem?_link_treeOfNodes _ _ _ (by omega), getElem?_weight_treeOfNodes _ _ _ (by omega), hnode]
  simp [leafNode]

theorem MergedTree.merge_at {i : Nat} {m : Merge} (hi : ms[i]? = some m) :
    t.link[(activeSymbols f).length + i]? = some m.node.link ∧
      nodeWeight t ((activeSymbols f).length + i) = m.weight := by
  have hlt := (List.getElem?_eq_some_iff.1 hi).1
  have := length_activeSymbols_le f
  have := h.length_merges
  have hnode : (leafNodes f ++ ms.map Merge.node)[(activeSymbols f).length + i]? = some m.node := by
    rw [← length_leafNodes, List.getElem?_append_right (Nat.le_add_right ..), Nat.add_sub_cancel_left,
      List.getElem?_map, hi]
    rfl
  have hweight : m.weight < addressLimit :=
    ((h.merges.weight_le m (List.mem_of_getElem? hi)).trans (sum_leafKeys f).le).trans_lt h.sum_lt
  rw [nodeWeight, h.tree_eq, getElem?_link_treeOfNodes _ _ _ (by omega),
    getElem?_weight_treeOfNodes _ _ _ (by omega), hnode]
  exact ⟨rfl, Nat.mod_eq_of_lt hweight⟩

theorem MergedTree.unused_at {n : Nat} (hn : (activeSymbols f).length + ms.length ≤ n) (hlt : n < 511) :
    t.link[n]? = some Link.zero ∧ t.weight[n]? = some 0 := by
  have hnode : (leafNodes f ++ ms.map Merge.node)[n]? = none :=
    List.getElem?_eq_none (by simpa [length_leafNodes] using hn)
  rw [h.tree_eq, getElem?_link_treeOfNodes _ _ _ hlt, getElem?_weight_treeOfNodes _ _ _ hlt, hnode]
  exact ⟨rfl, rfl⟩

/-! The queue of each merge. -/

theorem MergedTree.nodeWeight_leafKey {p : Nat × Nat} (hp : p ∈ leafKeys (leafNodes f)) :
    nodeWeight t p.2 = p.1 := by
  obtain ⟨x, hx, hw⟩ := mem_leafKeys.1 hp
  rw [leafNodes_eq_map, List.getElem?_map, Option.map_eq_some_iff] at hx
  obtain ⟨k, hk, rfl⟩ := hx
  rw [nodeWeight, (h.leaf_at hk).2]
  exact hw

/-- The keys a merge takes are the smallest of the ids that no merge before it took. -/
theorem MergedTree.queue_at {i : Nat} {m : Merge} (hi : ms[i]? = some m) :
    ∃ rest, keyLess m.1 m.2 = true ∧ (∀ z ∈ rest, keyLess m.2 z = true) ∧
      (∀ p ∈ m.1 :: m.2 :: rest, nodeWeight t p.2 = p.1) ∧
      ((m.1 :: m.2 :: rest).map Prod.snd ++ takenIds (ms.take i)).Perm
        (List.range ((activeSymbols f).length + i)) := by
  obtain ⟨rest, hleft, hright, hweights, hperm⟩ := h.merges.queue_at (wt := nodeWeight t)
    (fun _ hp => h.nodeWeight_leafKey hp) (fun _ _ hj => (h.merge_at hj).2) hi
  refine ⟨rest, hleft, hright, hweights, hperm.trans (.of_eq (leafKeys_ids_append f i))⟩

/-- The root and the ids the merges take are the nodes of the arena, once each. -/
theorem MergedTree.takenIds_perm :
    (r.2 :: takenIds ms).Perm (List.range ((activeSymbols f).length + ms.length)) :=
  h.merges.takenIds_perm.trans (.of_eq (leafKeys_ids_append f _))

theorem MergedTree.children_lt {i : Nat} {m : Merge} (hi : ms[i]? = some m) :
    m.1.2 < (activeSymbols f).length + i ∧ m.2.2 < (activeSymbols f).length + i := by
  obtain ⟨rest, -, -, -, hperm⟩ := h.queue_at hi
  exact ⟨List.mem_range.1 (hperm.mem_iff.1 (by simp)), List.mem_range.1 (hperm.mem_iff.1 (by simp))⟩

/-- The links of a merged node hold the ids of its children. -/
theorem MergedTree.link_eq {i : Nat} {m : Merge} (hi : ms[i]? = some m) (p : Fin 511)
    (hp : p.val = (activeSymbols f).length + i) :
    t.link[p].isLeaf = false ∧ t.link[p].symbol = 0 ∧
      t.link[p].left.toNat = m.1.2 ∧ t.link[p].right.toNat = m.2.2 := by
  have hlink : t.link[p] = m.node.link := by
    have := (h.merge_at hi).1
    rw [← hp] at this
    simpa using this
  obtain ⟨hx, hy⟩ := h.children_lt hi
  rw [hlink]
  exact ⟨rfl, rfl, Nat.mod_eq_of_lt (by omega), Nat.mod_eq_of_lt (by omega)⟩

theorem MergedTree.childOf_iff {i : Nat} {m : Merge} (hi : ms[i]? = some m) {p : Fin 511}
    (hp : p.val = (activeSymbols f).length + i) {id : Nat} : ChildOf t id p ↔ id = m.1.2 ∨ id = m.2.2 := by
  obtain ⟨-, -, hleft, hright⟩ := h.link_eq hi p hp
  rw [ChildOf, hleft, hright, eq_comm, eq_comm (a := m.2.2)]

theorem MergedTree.parentless_iff {i id : Nat} (hi : i ≤ ms.length) :
    Parentless t ((activeSymbols f).length + i) id ↔
      id < (activeSymbols f).length + i ∧ id ∉ takenIds (ms.take i) := by
  have := length_activeSymbols_le f
  have := h.length_merges
  rw [Parentless, h.active_eq, mem_takenIds]
  refine and_congr_right fun _ => ⟨fun hno ⟨m, hm, hid⟩ => ?_, fun hno p hle hlt hchild => hno ?_⟩
  · obtain ⟨j, hj⟩ := List.mem_iff_getElem?.1 hm
    have hji : j < i := by have := (List.getElem?_eq_some_iff.1 hj).1; simp at this; omega
    rw [List.getElem?_take_of_lt hji] at hj
    exact hno ⟨(activeSymbols f).length + j, by omega⟩ (Nat.le_add_right ..) (Nat.add_lt_add_left hji _)
      ((h.childOf_iff hj rfl).2 hid)
  · obtain ⟨j, m, hj, hp⟩ := exists_merge (ms := ms) hle (by omega)
    have hj' : (ms.take i)[j]? = some m := (List.getElem?_take_of_lt (by omega)).trans hj
    exact ⟨m, List.mem_of_getElem? hj', (h.childOf_iff hj hp).1 hchild⟩

/-- No id is taken by two merges. -/
theorem MergedTree.taker_unique {i j id : Nat} {m m' : Merge} (hi : ms[i]? = some m) (hj : ms[j]? = some m')
    (hid : id = m.1.2 ∨ id = m.2.2) (hid' : id = m'.1.2 ∨ id = m'.2.2) : i = j := by
  have hnodup : (takenIds ms).Nodup := (List.nodup_cons.1 (h.takenIds_perm.nodup_iff.2 List.nodup_range)).2
  have hdisj := List.pairwise_iff_getElem.1 (List.nodup_flatMap.1 hnodup).2
  obtain ⟨hi', rfl⟩ := List.getElem?_eq_some_iff.1 hi
  obtain ⟨hj', rfl⟩ := List.getElem?_eq_some_iff.1 hj
  rcases Nat.lt_trichotomy i j with hlt | heq | hlt
  · exact absurd (by simpa using hid') (hdisj i j hi' hj' hlt (a := id) (by simpa using hid))
  · exact heq
  · exact absurd (by simpa using hid) (hdisj j i hj' hi' hlt (a := id) (by simpa using hid'))

end

end Sys2Proof.Machine

namespace Sys2Proof.Machine

/-! PROOFS. The tree builder: TREE_BUILD (spec/41_tree_builder.md R173 to R175). -/

section
variable {f : Vector Word 256} {t : Tree} {ms : List Merge} {r : Nat × Nat} (h : MergedTree f t ms r)
include h

theorem MergedTree.last_eq : 2 * (activeSymbols f).length - 1 = (activeSymbols f).length + ms.length := by
  have := h.length_merges
  omega

theorem MergedTree.root_eq_last : 2 * (activeSymbols f).length - 2 = r.2 := by
  have := h.length_merges
  have := h.root_succ_eq
  omega

/-- The root holds the sum of FREQ. -/
theorem MergedTree.nodeWeight_root : nodeWeight t r.2 = freqSum f :=
  calc nodeWeight t r.2
    _ = r.1 := h.merges.root_key (fun _ hp => h.nodeWeight_leafKey hp) fun _ _ hj => (h.merge_at hj).2
    _ = _ := h.merges.root_weight
    _ = freqSum f := sum_leafKeys f

theorem MergedTree.leaf_eq (n : Fin 511) {k : Fin 256} (hk : (activeSymbols f)[n.val]? = some k) :
    t.link[n] = (leafNode f[k] k.val).link ∧ t.weight[n] = f[k] := by
  simpa using h.leaf_at hk

/-- The first nodes are the leaves of the active symbols. -/
theorem MergedTree.leaves_hold (n : Fin 511) (hn : n.val < (activeSymbols f).length) :
    t.link[n].isLeaf = true ∧ t.link[n].left = 0xFFFF ∧ t.link[n].right = 0xFFFF ∧
      f[t.link[n].symbol.toNat]? = some t.weight[n] ∧ t.weight[n] ≠ 0 := by
  have hk := List.getElem?_eq_getElem hn
  have hactive := mem_activeSymbols.1 (List.mem_of_getElem? hk)
  obtain ⟨hlink, hweight⟩ := h.leaf_eq n hk
  rw [hlink, hweight]
  exact ⟨rfl, rfl, rfl, by simp [leafNode], hactive⟩

theorem MergedTree.leaves_ascend (n m : Fin 511) (hnm : n.val < m.val)
    (hm : m.val < (activeSymbols f).length) : t.link[n].symbol.toNat < t.link[m].symbol.toNat := by
  have hn := hnm.trans hm
  have hlt := List.pairwise_iff_getElem.1 (activeSymbols_pairwise_lt f) _ _ hn hm hnm
  rw [(h.leaf_eq n (List.getElem?_eq_getElem hn)).1, (h.leaf_eq m (List.getElem?_eq_getElem hm)).1]
  simpa [leafNode] using hlt

/-- The other nodes are those of the merges. -/
theorem MergedTree.inner_hold (n : Fin 511) (hle : (activeSymbols f).length ≤ n.val)
    (hlt : n.val < 2 * (activeSymbols f).length - 1) :
    t.link[n].isLeaf = false ∧ t.link[n].symbol = 0 ∧
      t.link[n].left.toNat < n.val ∧ t.link[n].right.toNat < n.val ∧
      t.weight[n].toNat = nodeWeight t t.link[n].left.toNat + nodeWeight t t.link[n].right.toNat := by
  obtain ⟨i, m, hi, hn⟩ := exists_merge hle (h.last_eq ▸ hlt)
  obtain ⟨hleaf, hsymbol, hleft, hright⟩ := h.link_eq hi n hn
  obtain ⟨hx, hy⟩ := h.children_lt hi
  obtain ⟨rest, -, -, hweights, -⟩ := h.queue_at hi
  have hweight := (h.merge_at hi).2
  rw [hleaf, hsymbol, hleft, hright, toNat_weight_eq_nodeWeight, hn, hweight, hweights m.1 (by simp),
    hweights m.2 (by simp)]
  exact ⟨rfl, rfl, hx, hy, rfl⟩

theorem MergedTree.unused_hold (n : Fin 511) (hn : 2 * (activeSymbols f).length - 1 ≤ n.val) :
    t.weight[n] = 0 ∧ t.link[n] = Link.zero := by
  simpa [and_comm] using h.unused_at (h.last_eq ▸ hn) n.isLt

end

/-- TREE_BUILD completes with the tree of its body. -/
theorem exec_treeBuild_ok {s : State} {t : Tree} (h : buildTree s.freq = .ok t) :
    exec .treeBuild s = .next (finished { s with tree := t, treeValid := true } t.active.toNat t.root.toNat
      (nodeWeight t t.root.toNat) t.nodeCount.toNat) := by
  have hbody : bodyOf .treeBuild s = .ok
      { state := withTree s t, r0 := t.active.toNat, r1 := t.root.toNat
        r2 := nodeWeight t t.root.toNat, r3 := t.nodeCount.toNat } :=
    except_bind_eq_ok.2 ⟨t, raisedIn_eq_ok.2 h, rfl⟩
  exact exec_eq_finished rfl rfl hbody rfl

/-- Settles O26: by what each node of a merged tree holds. -/
theorem treeBuildCompletes : Obligations.TreeBuildCompletes := by
  intro s k hsum hk hpos
  rw [length_filter_ne_zero] at hk
  subst hk
  obtain ⟨t, ms, r, hbuild, h⟩ := exists_buildTree_eq_ok hsum hpos
  have hroot : t.root.toNat = 2 * (activeSymbols s.freq).length - 2 := h.root_eq.trans h.root_eq_last.symm
  have hcount : t.nodeCount.toNat = 2 * (activeSymbols s.freq).length - 1 := h.nodeCount_eq.trans h.last_eq.symm
  refine ⟨t, ?_, hcount, hroot, h.active_eq, h.leaves_hold, h.leaves_ascend, h.inner_hold, h.unused_hold⟩
  rw [exec_treeBuild_ok hbuild, h.root_eq, h.nodeWeight_root, h.active_eq, hcount, h.root_eq_last]

section
variable {f : Vector Word 256} {t : Tree} {ms : List Merge} {r : Nat × Nat} (h : MergedTree f t ms r)
include h

/-- Each merge takes the two smallest keys of the nodes without a parent. -/
theorem MergedTree.takes_smallest (n : Fin 511) (hle : t.active.toNat ≤ n.val)
    (hlt : n.val < t.nodeCount.toNat) :
    Parentless t n.val t.link[n].left.toNat ∧ Parentless t n.val t.link[n].right.toNat ∧
      KeyBelow t t.link[n].left.toNat t.link[n].right.toNat ∧
      ∀ m, Parentless t n.val m → m ≠ t.link[n].left.toNat → m ≠ t.link[n].right.toNat →
        KeyBelow t t.link[n].right.toNat m := by
  rw [h.active_eq] at hle
  rw [h.nodeCount_eq] at hlt
  obtain ⟨i, m, hi, hn⟩ := exists_merge hle hlt
  obtain ⟨-, -, hx, hy⟩ := h.link_eq hi n hn
  obtain ⟨rest, hleft, hright, hweights, hperm⟩ := h.queue_at hi
  have hparentless (id : Nat) : Parentless t ((activeSymbols f).length + i) id ↔
      id ∈ (m.1 :: m.2 :: rest).map Prod.snd := by
    have hdisj := List.disjoint_of_nodup_append (hperm.nodup_iff.2 List.nodup_range)
    rw [h.parentless_iff (by omega), ← List.mem_range, ← hperm.mem_iff, List.mem_append]
    exact ⟨fun ⟨hmem, hno⟩ => hmem.resolve_right hno, fun hid => ⟨.inl hid, hdisj hid⟩⟩
  have hbelow {p q : Nat × Nat} (hp : p ∈ m.1 :: m.2 :: rest) (hq : q ∈ m.1 :: m.2 :: rest)
      (hpq : keyLess p q = true) : KeyBelow t p.2 q.2 := by
    rw [keyBelow_iff, hweights p hp, hweights q hq]
    exact hpq
  rw [hx, hy, hn]
  refine ⟨(hparentless _).2 (by simp), (hparentless _).2 (by simp), hbelow (by simp) (by simp) hleft,
    fun id hid hne hne' => ?_⟩
  obtain ⟨z, hz, rfl⟩ := List.mem_map.1 ((hparentless id).1 hid)
  obtain rfl | hz := List.mem_cons.1 hz
  · exact absurd rfl hne
  obtain rfl | hz := List.mem_cons.1 hz
  · exact absurd rfl hne'
  · exact hbelow (by simp) (by simp [hz]) (hright z hz)

/-- Every node but the root has one parent. -/
theorem MergedTree.exists_unique_parent (m : Nat) (hm : m < t.nodeCount.toNat) (hroot : m ≠ t.root.toNat) :
    ∃ p : Fin 511, (t.active.toNat ≤ p.val ∧ p.val < t.nodeCount.toNat ∧ ChildOf t m p) ∧
      ∀ q : Fin 511, t.active.toNat ≤ q.val → q.val < t.nodeCount.toNat → ChildOf t m q → q = p := by
  have := length_activeSymbols_le f
  have := h.length_merges
  rw [h.root_eq] at hroot
  rw [h.nodeCount_eq] at hm ⊢
  rw [h.active_eq]
  have htaken := (List.mem_cons.1 (h.takenIds_perm.mem_iff.2 (List.mem_range.2 hm))).resolve_left hroot
  obtain ⟨m', hm', hid⟩ := mem_takenIds.1 htaken
  obtain ⟨i, hi⟩ := List.mem_iff_getElem?.1 hm'
  have hlt := (List.getElem?_eq_some_iff.1 hi).1
  refine ⟨⟨(activeSymbols f).length + i, by omega⟩, ⟨Nat.le_add_right .., Nat.add_lt_add_left hlt _,
    (h.childOf_iff hi rfl).2 hid⟩, fun q hle hlt' hchild => Fin.ext ?_⟩
  obtain ⟨j, m'', hj, hq⟩ := exists_merge hle hlt'
  rw [hq, h.taker_unique hj hi ((h.childOf_iff hj hq).1 hchild) hid]

/-- The root has no parent. -/
theorem MergedTree.root_not_child (q : Fin 511) (hle : t.active.toNat ≤ q.val)
    (hlt : q.val < t.nodeCount.toNat) : ¬ChildOf t t.root.toNat q := by
  rw [h.active_eq] at hle
  rw [h.nodeCount_eq] at hlt
  obtain ⟨i, m, hi, hq⟩ := exists_merge hle hlt
  rw [h.root_eq, h.childOf_iff hi hq]
  have hnodup := h.takenIds_perm.nodup_iff.2 List.nodup_range
  exact fun hid => (List.nodup_cons.1 hnodup).1 (mem_takenIds.2 ⟨m, List.mem_of_getElem? hi, hid⟩)

theorem MergedTree.inner_weights_ascend (n m : Fin 511) (hle : t.active.toNat ≤ n.val) (hnm : n.val ≤ m.val)
    (hlt : m.val < t.nodeCount.toNat) : t.weight[n].toNat ≤ t.weight[m].toNat := by
  rw [h.active_eq] at hle
  rw [h.nodeCount_eq] at hlt
  obtain ⟨i, x, hi, hn⟩ := exists_merge hle (hnm.trans_lt hlt)
  obtain ⟨j, y, hj, hm⟩ := exists_merge (hle.trans hnm) hlt
  rw [toNat_weight_eq_nodeWeight, toNat_weight_eq_nodeWeight, hn, hm, (h.merge_at hi).2, (h.merge_at hj).2]
  obtain heq | hij : i = j ∨ i < j := by omega
  · subst heq
    exact (congrArg Merge.weight (Option.some.inj (hi.symm.trans hj))).le
  · obtain ⟨hi', rfl⟩ := List.getElem?_eq_some_iff.1 hi
    obtain ⟨hj', rfl⟩ := List.getElem?_eq_some_iff.1 hj
    exact List.pairwise_iff_getElem.1 h.merges.weights_ascend i j hi' hj' hij

end

/-- Settles O27: the tree comes of merges, each of which takes the two smallest keys of its queue. -/
theorem treeWeightsNeverDecrease : Obligations.TreeWeightsNeverDecrease := by
  intro f t hbuild
  obtain ⟨ms, r, h⟩ := mergedTree_of_buildTree hbuild
  exact ⟨h.takes_smallest, h.exists_unique_parent, h.root_not_child, h.inner_weights_ascend⟩

end Sys2Proof.Machine

namespace Sys2Proof.Machine

/-! PROOFS. The tree builder: the leaves below a node and their depths, and TREE_LENGTHS
(spec/41_tree_builder.md R176 to R178). -/

/-! ### The walk -/

/-- The children of every internal node are below it, so the walk ends. -/
def ChildrenBelow (t : Tree) : Prop :=
  ∀ (id : Nat) (l : Link), t.link[id]? = some l → l.isLeaf = false → l.left.toNat < id ∧ l.right.toNat < id

section
variable {t : Tree} {id : Nat} {l : Link}

theorem leafDepths_of_none (h : t.link[id]? = none) (fuel depth : Nat) : leafDepths t fuel id depth = [] := by
  cases fuel <;> simp [leafDepths, h]

theorem leafDepths_of_leaf (h : t.link[id]? = some l) (hl : l.isLeaf = true) (fuel depth : Nat) :
    leafDepths t (fuel + 1) id depth = [(l.symbol, depth)] := by
  simp [leafDepths, h, hl]

theorem leafDepths_of_inner (h : t.link[id]? = some l) (hl : l.isLeaf = false) (fuel depth : Nat) :
    leafDepths t (fuel + 1) id depth =
      leafDepths t fuel l.left.toNat (depth + 1) ++ leafDepths t fuel l.right.toNat (depth + 1) := by
  simp [leafDepths, h, hl]

theorem le_of_mem_leafDepths {fuel depth : Nat} {x : Byte × Nat} (hx : x ∈ leafDepths t fuel id depth) :
    depth ≤ x.2 := by
  induction fuel generalizing id depth with
  | zero => exact absurd hx (by simp [leafDepths])
  | succ fuel ih =>
    cases hl : t.link[id]? with
    | none => exact absurd hx (by simp [leafDepths_of_none hl])
    | some l =>
      cases hleaf : l.isLeaf with
      | true => rw [leafDepths_of_leaf hl hleaf, List.mem_singleton] at hx; exact hx ▸ Nat.le_refl _
      | false =>
        rw [leafDepths_of_inner hl hleaf, List.mem_append] at hx
        exact (Nat.le_succ _).trans (hx.elim ih ih)

/-- Which symbols lie below a node depends neither on the bound of the walk nor on the node's depth. -/
theorem leafDepths_symbols (hbelow : ChildrenBelow t) {fuel fuel' depth depth' : Nat} (h : id < fuel)
    (h' : id < fuel') :
    (leafDepths t fuel id depth).map Prod.fst = (leafDepths t fuel' id depth').map Prod.fst := by
  induction fuel generalizing id fuel' depth depth' with
  | zero => exact absurd h (Nat.not_lt_zero _)
  | succ fuel ih =>
    obtain ⟨fuel', rfl⟩ : ∃ n, fuel' = n + 1 := ⟨fuel' - 1, by omega⟩
    cases hl : t.link[id]? with
    | none => rw [leafDepths_of_none hl, leafDepths_of_none hl]
    | some l =>
      cases hleaf : l.isLeaf with
      | true => rw [leafDepths_of_leaf hl hleaf, leafDepths_of_leaf hl hleaf]; rfl
      | false =>
        obtain ⟨hx, hy⟩ := hbelow id l hl hleaf
        rw [leafDepths_of_inner hl hleaf, leafDepths_of_inner hl hleaf, List.map_append, List.map_append]
        exact congrArg₂ (· ++ ·) (ih (by omega) (by omega)) (ih (by omega) (by omega))

end

/-- The symbols of the leaves below a node. -/
def symbolsUnder (t : Tree) (id : Nat) : List Byte := (leafDepths t 512 id 0).map Prod.fst

/-- The leaves of a tree, each with its depth. -/
abbrev treeLeaves (t : Tree) : List (Byte × Nat) := leafDepths t 512 t.root.toNat 0

/-- The length TREE_LENGTHS gives a symbol. -/
def codeDepth (t : Tree) (k : Fin 256) : Nat := symbolDepth t (treeLeaves t) (BitVec.ofNat 8 k.val)

/-! ### The outcome of the walk -/

section
variable {t : Tree}

theorem treeDepths_eq_ok (h : ∀ k : Fin 256, codeDepth t k ≤ 64) :
    treeDepths t = .ok (tabulate fun k => BitVec.ofNat 8 (codeDepth t k)) := by
  unfold treeDepths
  dsimp only
  split
  next k hk =>
    rw [List.find?_range_eq_some] at hk
    obtain ⟨hdeep, hlt, -⟩ := hk
    exact absurd (of_decide_eq_true hdeep) (Nat.not_lt.2 (h ⟨k, List.mem_range.1 hlt⟩))
  next => rfl

theorem treeDepths_eq_error (k : Fin 256) (hdeep : 64 < codeDepth t k)
    (hleast : ∀ j : Fin 256, j < k → codeDepth t j ≤ 64) :
    treeDepths t = .error { code := .codeTooLong, info := k.val } := by
  have hfind : ((List.range 256).find? fun k =>
      decide (Config.maxCodeLen < symbolDepth t (treeLeaves t) (BitVec.ofNat 8 k))) = some k.val := by
    rw [List.find?_range_eq_some]
    refine ⟨decide_eq_true hdeep, List.mem_range.2 k.isLt, fun j hj => ?_⟩
    have hle := hleast ⟨j, hj.trans k.isLt⟩ hj
    rw [Bool.not_eq_true', decide_eq_false_iff_not]
    exact Nat.not_lt.2 hle
  unfold treeDepths
  dsimp only
  rw [hfind]

/-- The lengths of a tree are the depths, of which none is above 64. -/
theorem of_treeDepths_eq_ok {l : Vector Byte 256} (h : treeDepths t = .ok l) (k : Fin 256) :
    codeDepth t k ≤ 64 ∧ l[k].toNat = codeDepth t k := by
  have hle : ∀ k : Fin 256, codeDepth t k ≤ 64 := by
    unfold treeDepths at h
    dsimp only at h
    split at h
    next => exact nomatch h
    next hnone =>
      intro k
      rw [List.find?_range_eq_none] at hnone
      have := hnone k.val k.isLt
      rw [Bool.not_eq_true', decide_eq_false_iff_not] at this
      exact Nat.not_lt.1 this
  rw [treeDepths_eq_ok hle, Except.ok.injEq] at h
  have hlt : codeDepth t k < 2 ^ 8 := (hle k).trans_lt (by decide)
  refine ⟨hle k, ?_⟩
  rw [← h]
  simpa using hlt

end

/-! ### The leaves of a merged tree -/

theorem symbol_injective : Function.Injective fun k : Fin 256 => BitVec.ofNat 8 k.val := by
  intro k k' hk
  have := congrArg BitVec.toNat hk
  simpa [Nat.mod_eq_of_lt k.isLt, Nat.mod_eq_of_lt k'.isLt, Fin.ext_iff] using this

/-- In a list of pairs with different first parts, a pair is found by its first part. -/
theorem find?_fst_eq_some {α β : Type} [BEq α] [LawfulBEq α] {xs : List (α × β)} {x : α × β}
    (hnodup : (xs.map Prod.fst).Nodup) (hx : x ∈ xs) : xs.find? (fun y => y.1 == x.1) = some x := by
  induction xs with
  | nil => exact absurd hx List.not_mem_nil
  | cons y ys ih =>
    obtain ⟨hy, hys⟩ := List.nodup_cons.1 hnodup
    obtain rfl | hx := List.mem_cons.1 hx
    · exact List.find?_cons_of_pos (beq_self_eq_true _)
    · have hne : ¬(y.1 == x.1) = true := fun heq => hy (eq_of_beq heq ▸ List.mem_map_of_mem hx)
      exact (List.find?_cons_of_neg (p := fun z : α × β => z.1 == x.1) hne).trans (ih hys hx)

/-- A list, from what stands at each place of it. -/
theorem flatMap_range_length {α β : Type} {xs : List α} {g : Nat → List β} {F : α → β}
    (h : ∀ n x, xs[n]? = some x → g n = [F x]) : (List.range xs.length).flatMap g = xs.map F := by
  induction xs generalizing g with
  | nil => rfl
  | cons x xs ih =>
    rw [List.length_cons, List.range_succ_eq_map, List.flatMap_cons, List.flatMap_map, h 0 x rfl,
      ih fun n y hy => h (n + 1) y hy]
    rfl

section
variable {f : Vector Word 256} {t : Tree} {ms : List Merge} {r : Nat × Nat} (h : MergedTree f t ms r)
include h

theorem MergedTree.root_lt : t.root.toNat < 511 := by
  have := length_activeSymbols_le f
  have := h.length_merges
  have := h.root_succ_eq
  rw [h.root_eq]
  omega

theorem MergedTree.childrenBelow : ChildrenBelow t := by
  intro id l hl hleaf
  obtain ⟨hlt, rfl⟩ := Vector.getElem?_eq_some_iff.1 hl
  have hpos := h.active_pos
  rcases Nat.lt_or_ge id (activeSymbols f).length with hid | hid
  · obtain ⟨hleaf', -⟩ := h.leaves_hold ⟨id, hlt⟩ hid
    exact nomatch hleaf'.symm.trans hleaf
  rcases Nat.lt_or_ge id (2 * (activeSymbols f).length - 1) with hid' | hid'
  · obtain ⟨-, -, hx, hy, -⟩ := h.inner_hold ⟨id, hlt⟩ hid hid'
    exact ⟨hx, hy⟩
  · have hzero := (h.unused_hold ⟨id, hlt⟩ hid').2
    have hlink : t.link[id] = Link.zero := hzero
    rw [hlink]
    exact ⟨hpos.trans_le hid, hpos.trans_le hid⟩

theorem MergedTree.symbolsUnder_leaf {n : Nat} {k : Fin 256} (hk : (activeSymbols f)[n]? = some k) :
    symbolsUnder t n = [BitVec.ofNat 8 k.val] := by
  rw [symbolsUnder, leafDepths_of_leaf (h.leaf_at hk).1 rfl]
  rfl

theorem MergedTree.symbolsUnder_merge {i : Nat} {m : Merge} (hi : ms[i]? = some m) :
    symbolsUnder t ((activeSymbols f).length + i) = symbolsUnder t m.1.2 ++ symbolsUnder t m.2.2 := by
  have hlt := (List.getElem?_eq_some_iff.1 hi).1
  have := length_activeSymbols_le f
  have := h.length_merges
  obtain ⟨hx, hy⟩ := h.children_lt hi
  have hleft : m.node.link.left.toNat = m.1.2 := Nat.mod_eq_of_lt (by omega)
  have hright : m.node.link.right.toNat = m.2.2 := Nat.mod_eq_of_lt (by omega)
  rw [symbolsUnder, leafDepths_of_inner (h.merge_at hi).1 rfl, List.map_append, hleft, hright,
    leafDepths_symbols h.childrenBelow (fuel' := 512) (depth' := 0) (by omega) (by omega),
    leafDepths_symbols h.childrenBelow (fuel' := 512) (depth' := 0) (id := m.2.2) (by omega) (by omega)]
  rfl

/-- The leaves of the tree are those of the active symbols, once each. -/
theorem MergedTree.leaf_symbols :
    ((treeLeaves t).map Prod.fst).Perm ((activeSymbols f).map fun k => BitVec.ofNat 8 k.val) := by
  have hperm := h.merges.flatMap_perm fun _ _ hi => h.symbolsUnder_merge hi
  rw [leafKeys_map_snd, length_leafNodes, flatMap_range_length fun _ _ hk => h.symbolsUnder_leaf hk,
    ← h.root_eq] at hperm
  exact hperm.symm

theorem MergedTree.leaf_symbols_nodup : ((treeLeaves t).map Prod.fst).Nodup :=
  h.leaf_symbols.nodup_iff.2 (((List.nodup_finRange 256).filter _).map symbol_injective)

theorem MergedTree.symbol_mem_iff {k : Fin 256} :
    BitVec.ofNat 8 k.val ∈ (treeLeaves t).map Prod.fst ↔ f[k] ≠ 0 := by
  rw [h.leaf_symbols.mem_iff, List.mem_map_of_injective symbol_injective, mem_activeSymbols]

/-! ### The lengths of a merged tree -/

theorem MergedTree.active_eq_one_iff : t.active = 1 ↔ (activeSymbols f).length = 1 := by
  rw [← h.active_eq, ← BitVec.toNat_inj]
  rfl

/-- The root of a tree of one leaf is the leaf of the only active symbol. -/
theorem MergedTree.rootSymbol_single (hone : t.active = 1) :
    ∃ k, activeSymbols f = [k] ∧ rootSymbol t = some (BitVec.ofNat 8 k.val) := by
  have hlen := h.active_eq_one_iff.1 hone
  have hroot : t.root.toNat = 0 := by rw [h.root_eq, ← h.root_eq_last, hlen]
  obtain ⟨k, hk⟩ := List.length_eq_one_iff.1 hlen
  have hlink := (h.leaf_at (n := 0) (k := k) (by rw [hk]; rfl)).1
  refine ⟨k, hk, ?_⟩
  rw [rootSymbol, hroot, hlink]
  rfl

/-- The only active symbol has length 1 (41_tree_builder.md R178). -/
theorem MergedTree.codeDepth_single (hone : t.active = 1) {k : Fin 256} (hk : f[k] ≠ 0) :
    codeDepth t k = 1 := by
  obtain ⟨k', hactive, hroot⟩ := h.rootSymbol_single hone
  obtain rfl : k = k' := List.mem_singleton.1 (hactive ▸ mem_activeSymbols.2 hk)
  exact if_pos ⟨hone, hroot⟩

theorem MergedTree.codeDepth_absent {k : Fin 256} (hk : f[k] = 0) : codeDepth t k = 0 := by
  have hroot : ¬(t.active = 1 ∧ rootSymbol t = some (BitVec.ofNat 8 k.val)) := fun ⟨hone, hroot⟩ => by
    obtain ⟨k', hactive, hroot'⟩ := h.rootSymbol_single hone
    obtain rfl : k = k' := symbol_injective (Option.some.inj (hroot.symm.trans hroot'))
    exact mem_activeSymbols.1 (hactive ▸ List.mem_singleton_self k) hk
  have hfind : (treeLeaves t).find? (fun x => x.1 == BitVec.ofNat 8 k.val) = none :=
    List.find?_eq_none.2 fun x hx heq =>
      h.symbol_mem_iff.1 (eq_of_beq heq ▸ List.mem_map_of_mem hx) hk
  rw [codeDepth, symbolDepth, if_neg hroot, hfind]

/-- With more than one active symbol, the length of each is the depth of its leaf. -/
theorem MergedTree.symbolDepth_of_mem (hmany : t.active ≠ 1) {x : Byte × Nat} (hx : x ∈ treeLeaves t) :
    symbolDepth t (treeLeaves t) x.1 = x.2 := by
  rw [symbolDepth, if_neg fun hroot => hmany hroot.1, find?_fst_eq_some h.leaf_symbols_nodup hx]

/-- With more than one active symbol, the root is no leaf. -/
theorem MergedTree.leaf_depth_pos (hmany : t.active ≠ 1) {x : Byte × Nat} (hx : x ∈ treeLeaves t) :
    0 < x.2 := by
  have hlen := h.length_merges
  have hroot := h.root_succ_eq
  rw [Ne, h.active_eq_one_iff] at hmany
  have hle : (activeSymbols f).length ≤ r.2 := by omega
  obtain ⟨i, m, hi, hr⟩ := exists_merge (ms := ms) hle (by omega)
  have hlink := (h.merge_at hi).1
  rw [← hr, ← h.root_eq] at hlink
  rw [treeLeaves, leafDepths_of_inner hlink rfl, List.mem_append] at hx
  exact hx.elim le_of_mem_leafDepths le_of_mem_leafDepths

/-- A symbol has a length exactly if it is active. -/
theorem MergedTree.codeDepth_eq_zero_iff {k : Fin 256} : codeDepth t k = 0 ↔ f[k] = 0 := by
  refine ⟨fun hzero => by_contra fun hk => ?_, h.codeDepth_absent⟩
  by_cases hone : t.active = 1
  · exact absurd (h.codeDepth_single hone hk) (by omega)
  · obtain ⟨x, hx, hsymbol⟩ := List.mem_map.1 (h.symbol_mem_iff.2 hk)
    have hdepth := h.symbolDepth_of_mem hone hx
    rw [hsymbol] at hdepth
    exact absurd (hdepth.symm.trans hzero) (h.leaf_depth_pos hone hx).ne'

end

/-! ### TREE_LENGTHS -/

/-- TREE_LENGTHS completes with the lengths of its body. -/
theorem exec_treeLengths_ok {s : State} {l : Vector Byte 256} (hvalid : s.treeValid = true)
    (h : treeDepths s.tree = .ok l) :
    exec .treeLengths s = .next
      (finished { s with len := l, canonValid := false } (maxLength l) s.tree.active.toNat 0 0) := by
  have hbody : bodyOf .treeLengths s =
      .ok { state := withLengths s l, r0 := maxLength l, r1 := s.tree.active.toNat } :=
    except_bind_eq_ok.2 ⟨l, raisedIn_eq_ok.2 h, rfl⟩
  exact exec_eq_finished (i := .treeLengths) (s := s) hvalid rfl hbody rfl

theorem exec_treeLengths_error {s : State} {c : ErrCode} {info : Nat} (hvalid : s.treeValid = true)
    (hinfo : info < addressLimit) (h : treeDepths s.tree = .error { code := c, info := info }) :
    exec .treeLengths s = .next (failedWith s c.byte info) :=
  exec_eq_failedWith (i := .treeLengths) (s := s) hvalid rfl rfl hinfo
    (except_bind_eq_error.2 (.inl (raisedIn_eq_error.2 ⟨_, h, rfl⟩)))

/-- Settles O29: the tree is merged from FREQ, so a symbol has a length exactly if it is active. -/
theorem treeLengthsCompletes : Obligations.TreeLengthsCompletes := by
  intro s hvalid hbuild
  obtain ⟨ms, r, h⟩ := mergedTree_of_buildTree hbuild
  refine ⟨fun hle => ?_, fun k hk hdeep hleast => ?_⟩
  · have hlengths := treeDepths_eq_ok fun k => hle k.val k.isLt
    have hl := fun k => (of_treeDepths_eq_ok hlengths k).2
    refine ⟨_, exec_treeLengths_ok hvalid hlengths, fun k => ⟨hl k, ?_⟩, fun hone k hk => ?_⟩
    · rw [← h.codeDepth_eq_zero_iff, ← hl k, ← BitVec.toNat_inj]
      rfl
    · rw [← BitVec.toNat_inj, hl k, h.codeDepth_single hone hk]
      rfl
  · exact exec_treeLengths_error hvalid (hk.trans (by decide))
      (treeDepths_eq_error ⟨k, hk⟩ hdeep fun j hj => hleast j.val hj)

end Sys2Proof.Machine

namespace Sys2Proof.Machine

/-! PROOFS. The tree builder: the Kraft sum of the lengths of a tree (spec/41_tree_builder.md R179), and that
CANON_ASSIGN accepts lengths whose Kraft sum is at most 1 (spec/42_canonical.md R202). -/

/-! ### The Kraft check -/

theorem getD_codeRecurrence_zero (first : Nat) (cs : List Nat) : (codeRecurrence first cs).getD 0 0 = first := by
  cases cs <;> rfl

/-- first_code[n + 1] from first_code[n] and the count of length n. -/
theorem getD_codeRecurrence_succ {cs : List Nat} {n : Nat} (hn : n < cs.length) (first : Nat) :
    (codeRecurrence first cs).getD (n + 1) 0 =
      ((codeRecurrence first cs).getD n 0 + cs.getD n 0) * 2 := by
  induction cs generalizing n first with
  | nil => exact absurd hn (Nat.not_lt_zero n)
  | cons c cs ih =>
    cases n with
    | zero => exact getD_codeRecurrence_zero _ cs
    | succ n => exact ih (Nat.lt_of_succ_lt_succ hn) _

@[simp] theorem length_lengthCounts (l : Vector Byte 256) : (lengthCounts l).length = 65 := by
  simp [lengthCounts]

theorem getD_lengthCounts_succ (l : Vector Byte 256) {n : Nat} (hn : n < 64) :
    (lengthCounts l).getD (n + 1) 0 = lengthCount l (n + 1) := by
  simp [lengthCounts, hn]

theorem firstCode_zero (l : Vector Byte 256) : firstCode l 0 = 0 := getD_codeRecurrence_zero 0 _

theorem firstCode_succ (l : Vector Byte 256) {n : Nat} (hn : n ≤ 64) :
    firstCode l (n + 1) = (firstCode l n + (lengthCounts l).getD n 0) * 2 :=
  getD_codeRecurrence_succ (by rw [length_lengthCounts]; omega) 0

/-- A sum over the members with a property, and 0 for the others. -/
theorem sum_map_filter {α : Type} (p : α → Prop) [DecidablePred p] (g : α → Nat) (xs : List α) :
    ((xs.filter p).map g).sum = (xs.map fun x => if p x then g x else 0).sum := by
  simp [List.sum_map_ite]

/-- What a length adds to the Kraft sum (42_canonical.md R202), times 2^64; an absent symbol adds nothing. -/
def kraftTerm (b : Byte) : Nat := if b ≠ 0 then 2 ^ (64 - b.toNat) else 0

/-- The Kraft sum of the lengths up to `n`, times 2^64. -/
def kraftSum (l : Vector Byte 256) (n : Nat) : Nat :=
  (l.toList.map fun b => if b.toNat ≤ n then kraftTerm b else 0).sum

theorem kraftSum_zero (l : Vector Byte 256) : kraftSum l 0 = 0 := by
  refine List.sum_eq_zero fun x hx => ?_
  obtain ⟨b, -, rfl⟩ := List.mem_map.1 hx
  simp [kraftTerm, ← BitVec.toNat_inj]

theorem kraftSum_succ (l : Vector Byte 256) (n : Nat) :
    kraftSum l (n + 1) = kraftSum l n + lengthCount l (n + 1) * 2 ^ (64 - (n + 1)) := by
  have hterm (b : Byte) : (if b.toNat ≤ n + 1 then kraftTerm b else 0) =
      (if b.toNat ≤ n then kraftTerm b else 0) + if b.toNat = n + 1 then 2 ^ (64 - (n + 1)) else 0 := by
    obtain hle | heq | hgt : b.toNat ≤ n ∨ b.toNat = n + 1 ∨ n + 1 < b.toNat := by omega
    · rw [if_pos (by omega), if_pos hle, if_neg (by omega), Nat.add_zero]
    · have hb : b ≠ 0 := fun h => by simp [h] at heq
      rw [if_pos heq.le, if_neg (by omega), if_pos heq, kraftTerm, if_pos hb, heq, Nat.zero_add]
    · rw [if_neg (by omega), if_neg (by omega), if_neg (by omega)]
  have hcount : (l.toList.map fun b => if b.toNat = n + 1 then 2 ^ (64 - (n + 1)) else 0).sum =
      lengthCount l (n + 1) * 2 ^ (64 - (n + 1)) := by
    rw [← sum_map_filter, List.map_const', List.sum_replicate, lengthCount, List.countP_eq_length_filter]
    rfl
  rw [kraftSum, kraftSum, List.map_congr_left fun b _ => hterm b, List.sum_map_add, hcount]

theorem kraftSum_le (l : Vector Byte 256) (n : Nat) : kraftSum l n ≤ (l.toList.map kraftTerm).sum := by
  refine List.sum_le_sum fun b _ => ?_
  split
  · exact Nat.le_refl _
  · exact Nat.zero_le _

/-- What the check compares at length `n` is the Kraft sum up to `n`. -/
theorem firstCode_add_count (l : Vector Byte 256) {n : Nat} (hn : n ≤ 64) :
    (firstCode l n + (lengthCounts l).getD n 0) * 2 ^ (64 - n) = kraftSum l n := by
  induction n with
  | zero => rw [kraftSum_zero, firstCode_zero, show (lengthCounts l).getD 0 0 = 0 from rfl, Nat.zero_mul]
  | succ n ih =>
    have hpow : 2 ^ (64 - n) = 2 * 2 ^ (64 - (n + 1)) := by
      rw [← Nat.pow_succ', show 64 - n = (64 - (n + 1)).succ by omega]
    rw [kraftSum_succ, ← ih (by omega), firstCode_succ l (by omega), getD_lengthCounts_succ l (by omega), hpow,
      Nat.add_mul, Nat.mul_assoc]

/-- CANON_ASSIGN accepts lengths of at most 64 whose Kraft sum is at most 1. -/
theorem assignCodes_eq_ok_of_kraft {l : Vector Byte 256} (hle : ∀ k : Fin 256, l[k].toNat ≤ 64)
    (hsum : (l.toList.map kraftTerm).sum ≤ 2 ^ 64) : assignCodes l = .ok (canonTables l) := by
  have hlong : l.toList.findIdx? (fun b => decide (Config.maxCodeLen < b.toNat)) = none := by
    refine List.findIdx?_eq_none_iff.2 fun b hb => decide_eq_false (Nat.not_lt.2 ?_)
    rw [toList_eq_map_finRange] at hb
    obtain ⟨k, -, rfl⟩ := List.mem_map.1 hb
    exact hle k
  have hkraft : (List.range Config.maxCodeLen).find? (fun i => !kraftHolds l (i + 1)) = none := by
    refine List.find?_eq_none.2 fun i hi => ?_
    have hi : i + 1 ≤ 64 := List.mem_range.1 hi
    have hcheck : firstCode l (i + 1) + (lengthCounts l).getD (i + 1) 0 ≤ 2 ^ (i + 1) := by
      refine Nat.le_of_mul_le_mul_right ?_ (Nat.two_pow_pos (64 - (i + 1)))
      rw [firstCode_add_count l hi, ← Nat.pow_add, Nat.add_sub_cancel' hi]
      exact (kraftSum_le l _).trans hsum
    have hholds : kraftHolds l (i + 1) = true := decide_eq_true hcheck
    simp [hholds]
  rw [assignCodes, hlong]
  dsimp only
  rw [hkraft]

/-! ### The Kraft sum of a tree -/

/-- Below a node at depth `depth`, where no leaf is deeper than 64, the leaves' shares add to the node's: a
full binary tree. -/
theorem sum_leafDepths {t : Tree} (hbelow : ChildrenBelow t) {fuel id depth : Nat} (hfuel : id < fuel)
    (hid : id < 511) (hle : ∀ x ∈ leafDepths t fuel id depth, x.2 ≤ 64) :
    depth ≤ 64 ∧ ((leafDepths t fuel id depth).map fun x => 2 ^ (64 - x.2)).sum = 2 ^ (64 - depth) := by
  induction fuel generalizing id depth with
  | zero => exact absurd hfuel (Nat.not_lt_zero _)
  | succ fuel ih =>
    have hl : t.link[id]? = some t.link[id] := Vector.getElem?_eq_getElem hid
    cases hleaf : t.link[id].isLeaf with
    | true =>
      rw [leafDepths_of_leaf hl hleaf] at hle ⊢
      exact ⟨hle _ (List.mem_singleton_self _), by simp⟩
    | false =>
      obtain ⟨hx, hy⟩ := hbelow id _ hl hleaf
      rw [leafDepths_of_inner hl hleaf] at hle ⊢
      obtain ⟨hlt, hleft⟩ := ih (by omega) (by omega) fun x hx => hle x (List.mem_append_left _ hx)
      obtain ⟨-, hright⟩ := ih (by omega) (by omega) fun x hx => hle x (List.mem_append_right _ hx)
      refine ⟨by omega, ?_⟩
      rw [List.map_append, List.sum_append, hleft, hright, ← Nat.two_mul, ← Nat.pow_succ',
        show (64 - (depth + 1)).succ = 64 - depth by omega]

section
variable {f : Vector Word 256} {t : Tree} {ms : List Merge} {r : Nat × Nat} (h : MergedTree f t ms r)
include h

/-- With more than one active symbol, the shares of the active symbols are those of the leaves. -/
theorem MergedTree.sum_many (hmany : t.active ≠ 1) (hle : ∀ k : Fin 256, codeDepth t k ≤ 64) :
    ((activeSymbols f).map fun k => 2 ^ (64 - codeDepth t k)).sum = 2 ^ 64 := by
  have hdepth (x) (hx : x ∈ treeLeaves t) := h.symbolDepth_of_mem hmany hx
  have hleaves : ∀ x ∈ treeLeaves t, x.2 ≤ 64 := fun x hx => by
    have := hle ⟨x.1.toNat, x.1.isLt⟩
    rwa [codeDepth, BitVec.ofNat_toNat, BitVec.setWidth_eq, hdepth x hx] at this
  obtain ⟨-, hsum⟩ := sum_leafDepths h.childrenBelow (h.root_lt.trans (by decide)) h.root_lt hleaves
  have hshares : (treeLeaves t).map (fun x => 2 ^ (64 - x.2)) =
      ((treeLeaves t).map Prod.fst).map fun k => 2 ^ (64 - symbolDepth t (treeLeaves t) k) := by
    rw [List.map_map]
    exact List.map_congr_left fun x hx => by rw [Function.comp_apply, hdepth x hx]
  rw [hshares, (h.leaf_symbols.map _).sum_eq, List.map_map] at hsum
  exact hsum

/-- The only active symbol takes one bit. -/
theorem MergedTree.sum_single (hone : t.active = 1) :
    ((activeSymbols f).map fun k => 2 ^ (64 - codeDepth t k)).sum = 2 ^ 63 := by
  obtain ⟨k, hactive, -⟩ := h.rootSymbol_single hone
  have hk : f[k] ≠ 0 := mem_activeSymbols.1 (hactive ▸ List.mem_singleton_self k)
  rw [hactive, List.map_singleton, List.sum_singleton, h.codeDepth_single hone hk]

/-- The Kraft sum of the lengths is that of the active symbols. -/
theorem MergedTree.kraft_lengths {l : Vector Byte 256} (hl : ∀ k : Fin 256, l[k].toNat = codeDepth t k) :
    (l.toList.map kraftTerm).sum = ((activeSymbols f).map fun k => 2 ^ (64 - codeDepth t k)).sum := by
  have hpresent (k : Fin 256) : l[k] ≠ 0 ↔ f[k] ≠ 0 := by
    rw [Ne, ← BitVec.toNat_inj, hl k, Ne, ← h.codeDepth_eq_zero_iff]
    rfl
  rw [activeSymbols, sum_map_filter, toList_eq_map_finRange, List.map_map]
  congr 1
  refine List.map_congr_left fun k _ => ?_
  rw [Function.comp_apply, kraftTerm, hl k]
  exact if_congr (hpresent k) rfl rfl

end

/-- Settles O30: the lengths are the depths of a full binary tree's leaves, or 1 for the only leaf. -/
theorem treeLengthsMeetKraft : Obligations.TreeLengthsMeetKraft := by
  intro f t l hbuild hdepths
  obtain ⟨ms, r, h⟩ := mergedTree_of_buildTree hbuild
  have hle := fun k => (of_treeDepths_eq_ok hdepths k).1
  have hl := fun k => (of_treeDepths_eq_ok hdepths k).2
  have hkraft : (l.toList.map kraftTerm).sum = if t.active = 1 then 2 ^ 63 else 2 ^ 64 := by
    rw [h.kraft_lengths hl]
    split
    · next hone => exact h.sum_single hone
    · next hmany => exact h.sum_many hmany hle
  refine ⟨(sum_map_filter (· ≠ 0) _ _).trans hkraft, _, assignCodes_eq_ok_of_kraft (fun k => hl k ▸ hle k) ?_⟩
  rw [hkraft]
  split <;> decide

end Sys2Proof.Machine

namespace Sys2Proof.Machine

/-! PROOFS. The canonical assigner: its two checks (spec/42_canonical.md R201, R202), the sorted list of the
present symbols, and the tables CANON_ASSIGN writes (R200, R203). -/

/-! ### The checks of CANON_ASSIGN -/

theorem getD_lengthCounts (l : Vector Byte 256) {n : Nat} (hpos : 1 ≤ n) (hle : n ≤ 64) :
    (lengthCounts l).getD n 0 = lengthCount l n := by
  obtain ⟨m, rfl⟩ := Nat.exists_eq_add_of_le' hpos
  exact getD_lengthCounts_succ l hle

theorem kraftHolds_iff (l : Vector Byte 256) {n : Nat} (hpos : 1 ≤ n) (hle : n ≤ 64) :
    kraftHolds l n = true ↔ firstCode l n + lengthCount l n ≤ 2 ^ n := by
  rw [kraftHolds, getD_lengthCounts l hpos hle, decide_eq_true_iff]

/-- The lengths CANON_ASSIGN accepts: none is above 64 (R201), and the Kraft check holds at every length
(R202). -/
structure Assignable (l : Vector Byte 256) : Prop where
  le_64 : ∀ k : Fin 256, l[k].toNat ≤ 64
  kraft : ∀ n, 1 ≤ n → n ≤ 64 → firstCode l n + lengthCount l n ≤ 2 ^ n

theorem findTooLong_eq_none_iff {l : Vector Byte 256} :
    l.toList.findIdx? (fun b => decide (Config.maxCodeLen < b.toNat)) = none ↔
      ∀ k : Fin 256, l[k].toNat ≤ 64 := by
  simp [toList_eq_map_finRange, Config.maxCodeLen]

theorem findOverfull_eq_none_iff {l : Vector Byte 256} :
    ((List.range Config.maxCodeLen).find? fun i => !kraftHolds l (i + 1)) = none ↔
      ∀ n, 1 ≤ n → n ≤ 64 → firstCode l n + lengthCount l n ≤ 2 ^ n := by
  rw [List.find?_range_eq_none]
  constructor
  · intro h n hpos hle
    obtain ⟨i, rfl⟩ := Nat.exists_eq_add_of_le' hpos
    exact (kraftHolds_iff l hpos hle).1 (by simpa using h i hle)
  · intro h i hi
    simp [(kraftHolds_iff l (Nat.le_add_left 1 i) hi).2 (h _ (Nat.le_add_left 1 i) hi)]

theorem assignCodes_eq_ok_iff {l : Vector Byte 256} {c : Canon} :
    assignCodes l = .ok c ↔ Assignable l ∧ c = canonTables l := by
  constructor
  · intro h
    unfold assignCodes at h
    split at h
    · exact nomatch h
    next hlong =>
      split at h
      · exact nomatch h
      next hfull =>
        exact ⟨⟨findTooLong_eq_none_iff.1 hlong, findOverfull_eq_none_iff.1 hfull⟩, (Except.ok.inj h).symm⟩
  · rintro ⟨h, rfl⟩
    rw [assignCodes, findTooLong_eq_none_iff.2 h.le_64]
    dsimp only
    rw [findOverfull_eq_none_iff.2 h.kraft]

theorem assignCodes_codeTooLong {l : Vector Byte 256} {k : Fin 256} (hlong : 64 < l[k].toNat)
    (hleast : ∀ j : Fin 256, j.val < k.val → l[j].toNat ≤ 64) :
    assignCodes l = .error { code := .codeTooLong, info := k.val } := by
  have hfind : l.toList.findIdx? (fun b => decide (Config.maxCodeLen < b.toNat)) = some k.val := by
    refine List.findIdx?_eq_some_iff_getElem.2 ⟨by simp, by simpa using hlong, fun j hj => ?_⟩
    have hle := hleast ⟨j, hj.trans k.isLt⟩ hj
    simpa using hle
  rw [assignCodes, hfind]

theorem assignCodes_badLengths {l : Vector Byte 256} {n : Nat} (hle : ∀ k : Fin 256, l[k].toNat ≤ 64)
    (hpos : 1 ≤ n) (hn : n ≤ 64) (hfull : 2 ^ n < firstCode l n + lengthCount l n)
    (hleast : ∀ j, 1 ≤ j → j < n → firstCode l j + lengthCount l j ≤ 2 ^ j) :
    assignCodes l = .error { code := .badLengths, info := n } := by
  obtain ⟨i, rfl⟩ := Nat.exists_eq_add_of_le' hpos
  have hfind : (List.range Config.maxCodeLen).find? (fun i => !kraftHolds l (i + 1)) = some i := by
    refine List.find?_range_eq_some.2 ⟨?_, List.mem_range.2 hn, fun j hj => ?_⟩
    · rw [Bool.not_eq_true', ← Bool.not_eq_true, kraftHolds_iff l hpos hn]
      exact Nat.not_le.2 hfull
    · rw [Bool.not_not, kraftHolds_iff l (Nat.le_add_left 1 j) (by omega)]
      exact hleast _ (Nat.le_add_left 1 j) (Nat.succ_lt_succ hj)
  rw [assignCodes, findTooLong_eq_none_iff.2 hle]
  dsimp only
  rw [hfind]

/-- CANON_ASSIGN completes with the tables of its body. -/
theorem exec_canonAssign_ok {s : State} {c : Canon} (h : assignCodes s.len = .ok c) :
    exec .canonAssign s = .next
      (finished { s with canon := c, canonValid := true } c.nsym.toNat c.maxLen.toNat 0 0) := by
  have hbody : bodyOf .canonAssign s =
      .ok { state := withCanon s c, r0 := c.nsym.toNat, r1 := c.maxLen.toNat } :=
    except_bind_eq_ok.2 ⟨c, raisedIn_eq_ok.2 h, rfl⟩
  exact exec_eq_finished rfl rfl hbody rfl

theorem exec_canonAssign_error {s : State} {c : ErrCode} {info : Nat} (hinfo : info < addressLimit)
    (h : assignCodes s.len = .error { code := c, info := info }) :
    exec .canonAssign s = .next (failedWith s c.byte info) :=
  exec_eq_failedWith rfl rfl rfl hinfo (except_bind_eq_error.2 (.inl (raisedIn_eq_error.2 ⟨_, h, rfl⟩)))

/-- Settles O33: the length bound is checked before the Kraft check, and each search stops at the smallest
failure. -/
theorem canonAssignRejectsBadLengths : Obligations.CanonAssignRejectsBadLengths := fun _ =>
  ⟨fun k hlong hleast =>
    exec_canonAssign_error (k.isLt.trans (by decide)) (assignCodes_codeTooLong hlong hleast),
   fun _ hle hpos hn hfull hleast =>
    exec_canonAssign_error (hn.trans_lt (by decide)) (assignCodes_badLengths hle hpos hn hfull hleast)⟩

/-! ### The sorted list of the present symbols -/

/-- The symbols of length `n`, in ascending value. -/
def symbolsOfLength (l : Vector Byte 256) (n : Nat) : List (Fin 256) :=
  (List.finRange 256).filter fun k => l[k].toNat = n

/-- The present symbols, by (length ascending, symbol ascending). -/
def sortedSymbols (l : Vector Byte 256) : List (Fin 256) :=
  (List.range 64).flatMap fun i => symbolsOfLength l (i + 1)

/-- The entry of SORTED for a symbol. -/
def entryOf (l : Vector Byte 256) (k : Fin 256) : SortedEntry :=
  { symbol := BitVec.ofNat 8 k.val, length := l[k] }

/-- The order of SORTED: by length, then by symbol (R200). -/
abbrev SortsBefore (l : Vector Byte 256) (j k : Fin 256) : Prop :=
  l[j].toNat < l[k].toNat ∨ (l[j].toNat = l[k].toNat ∧ j.val < k.val)

@[simp] theorem mem_symbolsOfLength {l : Vector Byte 256} {n : Nat} {k : Fin 256} :
    k ∈ symbolsOfLength l n ↔ l[k].toNat = n := by
  simp [symbolsOfLength]

theorem sortedEntries_eq_map (l : Vector Byte 256) : sortedEntries l = (sortedSymbols l).map (entryOf l) := by
  have hzip : l.toList.zipIdx = (List.finRange 256).map fun k => (l[k], k.val) :=
    List.ext_getElem (by simp) fun n _ _ => by simp
  rw [sortedEntries, sortedSymbols, List.map_flatMap, hzip]
  congr 1
  funext i
  rw [List.filterMap_map, symbolsOfLength, ← List.filterMap_eq_filter, List.map_filterMap]
  congr 1
  funext k
  simp [Option.guard, entryOf]

theorem sortedSymbols_pairwise (l : Vector Byte 256) : (sortedSymbols l).Pairwise (SortsBefore l) := by
  refine List.pairwise_flatMap.2 ⟨fun i _ => ?_, List.pairwise_lt_range.imp fun hij x hx y hy => ?_⟩
  · refine ((List.pairwise_lt_finRange 256).filter _).imp_of_mem fun hx hy hxy => .inr ⟨?_, hxy⟩
    exact (mem_symbolsOfLength.1 hx).trans (mem_symbolsOfLength.1 hy).symm
  · rw [mem_symbolsOfLength] at hx hy
    exact .inl (by omega)

theorem SortsBefore.asymm {l : Vector Byte 256} {j k : Fin 256} (h : SortsBefore l j k) : ¬SortsBefore l k j := by
  omega

theorem SortsBefore.ne {l : Vector Byte 256} {j k : Fin 256} (h : SortsBefore l j k) : j ≠ k := by
  rintro rfl
  exact h.asymm h

theorem toNat_pos_iff {b : Byte} : 0 < b.toNat ↔ b ≠ 0 := by
  rw [Nat.pos_iff_ne_zero, Ne, Ne, ← BitVec.toNat_inj]
  rfl

/-- The present symbols, in ascending value. -/
def presentSymbols (l : Vector Byte 256) : List (Fin 256) := (List.finRange 256).filter fun k => l[k] ≠ 0

section
variable {l : Vector Byte 256} (hle : ∀ k : Fin 256, l[k].toNat ≤ 64)
include hle

theorem mem_sortedSymbols {k : Fin 256} : k ∈ sortedSymbols l ↔ l[k] ≠ 0 := by
  have := hle k
  simp only [sortedSymbols, List.mem_flatMap, List.mem_range, mem_symbolsOfLength, ← toNat_pos_iff]
  exact ⟨fun ⟨i, _, hi⟩ => by omega, fun hpos => ⟨l[k].toNat - 1, by omega, by omega⟩⟩

theorem sortedSymbols_perm : (sortedSymbols l).Perm (presentSymbols l) := by
  have hnodup : (sortedSymbols l).Nodup :=
    List.nodup_iff_pairwise_ne.2 ((sortedSymbols_pairwise l).imp fun h => SortsBefore.ne h)
  refine (List.perm_ext_iff_of_nodup hnodup ((List.nodup_finRange 256).filter _)).2 fun k => ?_
  rw [mem_sortedSymbols hle]
  simp

theorem length_sortedEntries : (sortedEntries l).length = (presentSymbols l).length := by
  rw [sortedEntries_eq_map, List.length_map, (sortedSymbols_perm hle).length_eq]

end

theorem length_presentSymbols_le (l : Vector Byte 256) : (presentSymbols l).length ≤ 256 :=
  (List.length_filter_le _ _).trans (List.length_finRange (n := 256)).le

theorem length_filter_present (l : Vector Byte 256) :
    (l.toList.filter (· ≠ 0)).length = (presentSymbols l).length := by
  simp [toList_eq_map_finRange, presentSymbols, List.filter_map, Function.comp_def]

theorem Assignable.nsym_eq {l : Vector Byte 256} (h : Assignable l) :
    (canonTables l).nsym.toNat = (sortedEntries l).length := by
  have := length_presentSymbols_le l
  rw [canonTables, length_sortedEntries h.le_64, BitVec.toNat_ofNat]
  omega

theorem sorted_canonTables (l : Vector Byte 256) (i : Fin 256) :
    (canonTables l).sorted[i] = ((sortedEntries l)[i.val]?).getD { symbol := 0, length := 0 } := by
  simp [canonTables]

/-- An entry of SORTED below NSYM is that of the symbol at its place in the sorted list. -/
theorem sorted_eq_entryOf {l : Vector Byte 256} {i : Fin 256} {k : Fin 256}
    (hk : (sortedSymbols l)[i.val]? = some k) : (canonTables l).sorted[i] = entryOf l k := by
  rw [sorted_canonTables, sortedEntries_eq_map, List.getElem?_map, hk]
  rfl

@[simp] theorem toNat_symbol_entryOf (l : Vector Byte 256) (k : Fin 256) :
    (entryOf l k).symbol.toNat = k.val := by
  simp [entryOf]

/-- Settles O32: SORTED is the list of the present symbols, which is sorted, and zeros behind it. -/
theorem sortedIsByLengthThenSymbol : Obligations.SortedIsByLengthThenSymbol := by
  intro l c hc
  obtain ⟨h, rfl⟩ := assignCodes_eq_ok_iff.1 hc
  rw [h.nsym_eq, sortedEntries_eq_map, List.length_map]
  have hsymbol (i : Fin 256) (hi : i.val < (sortedSymbols l).length) :
      (canonTables l).sorted[i] = entryOf l (sortedSymbols l)[i.val] :=
    sorted_eq_entryOf (List.getElem?_eq_getElem hi)
  refine ⟨fun i hi => ?_, fun i j hij hj => ?_, fun i hi => ?_⟩
  · rw [hsymbol i hi, toNat_symbol_entryOf]
    exact ⟨Vector.getElem?_eq_getElem _, (mem_sortedSymbols h.le_64).1 (List.getElem_mem hi)⟩
  · rw [hsymbol i (hij.trans hj), hsymbol j hj, toNat_symbol_entryOf, toNat_symbol_entryOf]
    exact (List.pairwise_iff_getElem.1 (sortedSymbols_pairwise l) _ _ _ hj hij).imp_right
      fun ⟨heq, hlt⟩ => ⟨BitVec.eq_of_toNat_eq heq, hlt⟩
  · rw [sorted_canonTables, sortedEntries_eq_map, List.getElem?_eq_none (by simpa using hi)]
    rfl

end Sys2Proof.Machine

namespace Sys2Proof.Machine

/-! PROOFS. The canonical assigner: the codes and rows CANON_ASSIGN writes fit their registers
(spec/42_canonical.md R200, R202, R203). -/

/-! ### Counting symbols by length -/

theorem lengthCount_le (l : Vector Byte 256) (n : Nat) : lengthCount l n ≤ 256 :=
  List.countP_le_length.trans (by simp)

theorem rowStartOf_eq_countP (l : Vector Byte 256) (n : Nat) :
    rowStartOf l n = (List.finRange 256).countP fun k => 0 < l[k].toNat ∧ l[k].toNat < n := by
  rw [rowStartOf, toList_eq_map_finRange, List.countP_map]
  rfl

theorem rowStartOf_le (l : Vector Byte 256) (n : Nat) : rowStartOf l n ≤ 256 :=
  List.countP_le_length.trans (by simp)

theorem rankWithin_succ (l : Vector Byte 256) (n : Nat) (k : Fin 256) :
    rankWithin l n (k.val + 1) = rankWithin l n k.val + if l[k].toNat = n then 1 else 0 := by
  simp [rankWithin, List.take_add_one, List.countP_singleton]

/-- A symbol's place within its length is below the number of symbols of that length. -/
theorem rankWithin_lt (l : Vector Byte 256) (k : Fin 256) :
    rankWithin l l[k].toNat k.val < lengthCount l l[k].toNat := by
  have hsucc := rankWithin_succ l l[k].toNat k
  rw [if_pos rfl] at hsucc
  have hle : rankWithin l l[k].toNat (k.val + 1) ≤ lengthCount l l[k].toNat :=
    (List.take_sublist _ _).countP_le
  omega

/-! ### The tables -/

theorem maxLength_le {l : Vector Byte 256} (hle : ∀ k : Fin 256, l[k].toNat ≤ 64) : maxLength l ≤ 64 := by
  refine List.foldlRecOn (motive := (· ≤ 64)) _ _ (Nat.zero_le 64) fun m hm b hb => max_le hm ?_
  rw [toList_eq_map_finRange] at hb
  obtain ⟨k, -, rfl⟩ := List.mem_map.1 hb
  exact hle k

section
variable {l : Vector Byte 256} (h : Assignable l)
include h

theorem Assignable.maxLen_eq : (canonTables l).maxLen.toNat = maxLength l := by
  have := maxLength_le h.le_64
  rw [canonTables, BitVec.toNat_ofNat]
  omega

/-- A code of `n` bits is below 2^n (R202). -/
theorem Assignable.symbolCode_lt {k : Fin 256} (hk : l[k] ≠ 0) : symbolCode l k < 2 ^ l[k].toNat := by
  have hrank := rankWithin_lt l k
  have hkraft := h.kraft l[k].toNat (toNat_pos_iff.2 hk) (h.le_64 k)
  rw [symbolCode, if_neg hk]
  omega

theorem Assignable.toNat_code (k : Fin 256) : (canonTables l).code[k].toNat = symbolCode l k := by
  have hlt : symbolCode l k < 2 ^ 64 := by
    by_cases hk : l[k] = 0
    · rw [symbolCode, if_pos hk]
      decide
    · exact (h.symbolCode_lt hk).trans_le (Nat.pow_le_pow_right (by decide) (h.le_64 k))
  simpa [canonTables] using hlt

theorem Assignable.toNat_rowBase {n : Fin 65} (hn : 1 ≤ n.val) :
    (canonTables l).rowBase[n].toNat = if lengthCount l n.val = 0 then 0 else firstCode l n.val := by
  have hle : n.val ≤ 64 := Nat.le_of_lt_succ n.isLt
  have hentry : (canonTables l).rowBase[n] =
      if lengthCount l n.val = 0 then 0 else BitVec.ofNat 64 (firstCode l n.val) := by
    simp only [canonTables, Fin.getElem_fin, getElem_tabulate, getD_lengthCounts l hn hle]
  rw [hentry]
  split
  · rfl
  next hcount =>
    have hkraft := h.kraft n.val hn hle
    have hpow : 2 ^ n.val ≤ 2 ^ 64 := Nat.pow_le_pow_right (by decide) hle
    rw [BitVec.toNat_ofNat, Nat.mod_eq_of_lt (by omega)]

end

theorem toNat_rowStart (l : Vector Byte 256) (n : Fin 65) :
    (canonTables l).rowStart[n].toNat = rowStartOf l n.val := by
  have hentry : (canonTables l).rowStart[n] = BitVec.ofNat 16 (rowStartOf l n.val) := by simp [canonTables]
  have := rowStartOf_le l n.val
  rw [hentry, BitVec.toNat_ofNat, Nat.mod_eq_of_lt (by omega)]

theorem toNat_rowCount (l : Vector Byte 256) {n : Fin 65} (hn : 1 ≤ n.val) :
    (canonTables l).rowCount[n].toNat = lengthCount l n.val := by
  have hentry : (canonTables l).rowCount[n] = BitVec.ofNat 16 (lengthCount l n.val) := by
    simp only [canonTables, Fin.getElem_fin, getElem_tabulate,
      getD_lengthCounts l hn (Nat.le_of_lt_succ n.isLt)]
  have := lengthCount_le l n.val
  rw [hentry, BitVec.toNat_ofNat, Nat.mod_eq_of_lt (by omega)]

/-! ### CANON_ASSIGN completes -/

/-- The recurrence of R200 has one solution. -/
theorem eq_firstCode_of_recurrence {l : Vector Byte 256} {first : Nat → Nat} (hzero : first 0 = 0)
    (hsucc : ∀ n, first (n + 1) = (first n + if n = 0 then 0 else lengthCount l n) * 2) {n : Nat} (hn : n ≤ 64) :
    first n = firstCode l n := by
  induction n with
  | zero => rw [hzero, firstCode_zero]
  | succ n ih =>
    rw [hsucc, ih (by omega), firstCode_succ l (by omega)]
    split
    next h0 => rw [h0]; rfl
    next h0 => rw [getD_lengthCounts l (Nat.pos_of_ne_zero h0) (by omega)]

/-- The number of symbols below `k` with the length `b`, as a list. -/
theorem length_filter_take (l : Vector Byte 256) (b : Byte) (k : Nat) :
    ((l.toList.take k).filter (· = b)).length = rankWithin l b.toNat k := by
  rw [rankWithin, List.countP_eq_length_filter]
  congr 2
  funext x
  exact decide_eq_decide.2 BitVec.toNat_inj.symm

theorem length_filter_shorter (l : Vector Byte 256) (n : Nat) :
    (l.toList.filter fun b => b ≠ 0 ∧ b.toNat < n).length = rowStartOf l n := by
  simp only [rowStartOf, List.countP_eq_length_filter, toNat_pos_iff]

/-- Settles O31: the Kraft check bounds every code and row base, so each register holds its value. -/
theorem canonAssignCompletes : Obligations.CanonAssignCompletes := by
  intro s first hle hzero hsucc hkraft
  have hfirst {n : Nat} (hn : n ≤ 64) := eq_firstCode_of_recurrence hzero hsucc hn
  have h : Assignable s.len := ⟨hle, fun n hpos hn => hfirst hn ▸ hkraft n hpos hn⟩
  refine ⟨_, exec_canonAssign_ok (assignCodes_eq_ok_iff.2 ⟨h, rfl⟩), ?_, h.maxLen_eq, fun k hk => ?_,
    fun k hk => ?_, fun n hn => ⟨toNat_rowCount _ hn, ?_, ?_⟩, by simp [canonTables, lengthCounts],
    by simp [canonTables, rowStartOf], by simp [canonTables, lengthCounts]⟩
  · rw [h.nsym_eq, length_sortedEntries hle, length_filter_present]
  · rw [← BitVec.toNat_inj, h.toNat_code, symbolCode, if_pos hk]
    rfl
  · rw [h.toNat_code, symbolCode, if_neg hk, hfirst (hle k), length_filter_take]
  · rw [toNat_rowStart, length_filter_shorter]
  · rw [h.toNat_rowBase hn, hfirst (Nat.le_of_lt_succ n.isLt)]

end Sys2Proof.Machine

namespace Sys2Proof.Machine

/-! PROOFS. The canonical assigner: row lookup inverts the code, and misses on every proper beginning of one
(spec/42_canonical.md R204, R205). -/

/-! ### The place of a symbol in SORTED -/

/-- In a list in a strict order, as many members stand before a member as are below it. -/
theorem getElem?_countP_of_pairwise {α : Type} {r : α → α → Prop} [DecidableRel r]
    (hasymm : ∀ x y, r x y → ¬r y x) {xs : List α} (hs : xs.Pairwise r) {x : α} (hx : x ∈ xs) :
    xs[xs.countP fun y => r y x]? = some x := by
  induction xs with
  | nil => exact nomatch hx
  | cons y ys ih =>
    obtain ⟨hy, hys⟩ := List.pairwise_cons.1 hs
    obtain rfl | hx := List.mem_cons.1 hx
    · have hnone : (x :: ys).countP (fun z => r z x) = 0 := by
        refine List.countP_eq_zero.2 fun z hz hlt => ?_
        have hlt : r z x := of_decide_eq_true hlt
        obtain rfl | hz := List.mem_cons.1 hz
        · exact hasymm z z hlt hlt
        · exact hasymm x z (hy z hz) hlt
      rw [hnone]
      rfl
    · rw [List.countP_cons_of_pos (by simpa using hy x hx), List.getElem?_cons_succ]
      exact ih hys hx

theorem rankWithin_eq_countP (l : Vector Byte 256) (n k : Nat) :
    rankWithin l n k = (List.finRange 256).countP fun j => l[j].toNat = n ∧ j.val < k := by
  have hbelow : ((List.finRange 256).take k).countP (fun j => l[j].toNat = n ∧ j.val < k) =
      ((List.finRange 256).take k).countP fun j => l[j].toNat == n := by
    refine List.countP_congr fun j hj => ?_
    have hjk : j.val < k := by
      obtain ⟨i, hi, rfl⟩ := List.mem_take_iff_getElem.1 hj
      simpa using (lt_min_iff.1 hi).1
    simp [hjk]
  have habove : ((List.finRange 256).drop k).countP (fun j => l[j].toNat = n ∧ j.val < k) = 0 := by
    refine List.countP_eq_zero.2 fun j hj => ?_
    obtain ⟨i, hi, rfl⟩ := List.mem_drop_iff_getElem.1 hj
    simp
  have hsplit := congrArg (List.countP fun j => decide (l[j].toNat = n ∧ j.val < k))
    (List.take_append_drop k (List.finRange 256))
  rw [List.countP_append, hbelow, habove, Nat.add_zero] at hsplit
  rw [← hsplit, rankWithin, toList_eq_map_finRange, ← List.map_take, List.countP_map]
  rfl

/-- The symbols that sort before `k` are the shorter ones and those before it within its length. -/
theorem countP_sortsBefore {l : Vector Byte 256} (hle : ∀ k : Fin 256, l[k].toNat ≤ 64) {k : Fin 256}
    (hk : l[k] ≠ 0) : ((sortedSymbols l).countP fun j => SortsBefore l j k) =
      rowStartOf l l[k].toNat + rankWithin l l[k].toNat k.val := by
  have hpos := toNat_pos_iff.2 hk
  rw [(sortedSymbols_perm hle).countP_eq, presentSymbols, List.countP_filter,
    List.countP_eq_countP_filter_add _ _ fun j => decide (l[j].toNat < l[k].toNat), List.countP_filter,
    List.countP_filter, rowStartOf_eq_countP, rankWithin_eq_countP]
  congr 1
  · refine List.countP_congr fun j _ => ?_
    simp only [← toNat_pos_iff, Bool.and_eq_true, decide_eq_true_eq]
    omega
  · refine List.countP_congr fun j _ => ?_
    simp only [← toNat_pos_iff, Bool.and_eq_true, Bool.not_eq_true', decide_eq_true_eq, decide_eq_false_iff_not]
    omega

/-- SORTED holds the entry of a present symbol at its row's start plus its place within its length. -/
theorem sortedEntries_at {l : Vector Byte 256} (hle : ∀ k : Fin 256, l[k].toNat ≤ 64) {k : Fin 256}
    (hk : l[k] ≠ 0) :
    (sortedSymbols l)[rowStartOf l l[k].toNat + rankWithin l l[k].toNat k.val]? = some k := by
  rw [← countP_sortsBefore hle hk]
  exact getElem?_countP_of_pairwise (fun _ _ => SortsBefore.asymm) (sortedSymbols_pairwise l)
    ((mem_sortedSymbols hle).2 hk)

/-! ### The row lookup -/

theorem lookupRow_zero (l : Vector Byte 256) (v : Nat) : lookupRow (canonTables l) 0 v = none := by
  simp [lookupRow, canonTables, lengthCounts]

theorem Assignable.lookupRow_eq {l : Vector Byte 256} (h : Assignable l) {n : Nat} (hpos : 1 ≤ n) (hn : n ≤ 64)
    (v : Nat) : lookupRow (canonTables l) n v =
      if firstCode l n ≤ v ∧ v < firstCode l n + lengthCount l n then
        ((canonTables l).sorted[rowStartOf l n + (v - firstCode l n)]?).map SortedEntry.symbol
      else none := by
  have hlt : n < 65 := Nat.lt_succ_of_le hn
  have hbase : (canonTables l).rowBase[n].toNat = if lengthCount l n = 0 then 0 else firstCode l n :=
    h.toNat_rowBase (n := ⟨n, hlt⟩) hpos
  have hstart : (canonTables l).rowStart[n].toNat = rowStartOf l n := toNat_rowStart l ⟨n, hlt⟩
  have hcount : (canonTables l).rowCount[n].toNat = lengthCount l n := toNat_rowCount l (n := ⟨n, hlt⟩) hpos
  rw [lookupRow, dif_pos hlt, hbase, hstart, hcount]
  by_cases h0 : lengthCount l n = 0
  · rw [if_neg (by omega), if_neg (by omega)]
  · simp only [if_neg h0, Nat.pos_of_ne_zero h0, true_and]

theorem Assignable.lookupRow_symbolCode {l : Vector Byte 256} (h : Assignable l) {k : Fin 256} (hk : l[k] ≠ 0) :
    lookupRow (canonTables l) l[k].toNat (symbolCode l k) = some (BitVec.ofNat 8 k.val) := by
  have hrank := rankWithin_lt l k
  have hat := sortedEntries_at h.le_64 hk
  have hlt : rowStartOf l l[k].toNat + rankWithin l l[k].toNat k.val < 256 := by
    have hlen := (List.getElem?_eq_some_iff.1 hat).1
    rw [(sortedSymbols_perm h.le_64).length_eq] at hlen
    exact hlen.trans_le (length_presentSymbols_le l)
  have hsorted := sorted_eq_entryOf (i := ⟨_, hlt⟩) hat
  rw [Fin.getElem_fin] at hsorted
  rw [h.lookupRow_eq (toNat_pos_iff.2 hk) (h.le_64 k), symbolCode, if_neg hk, if_pos (by omega),
    Nat.add_sub_cancel_left, Vector.getElem?_eq_getElem hlt, hsorted]
  rfl

/-- The end of the codes of length `n`, extended by zero bits to a greater length `m`, is at most first_code[m]. -/
theorem firstCode_mul_le (l : Vector Byte 256) {n m : Nat} (hnm : n < m) (hm : m ≤ 64) :
    (firstCode l n + (lengthCounts l).getD n 0) * 2 ^ (m - n) ≤ firstCode l m := by
  induction m, hnm using Nat.le_induction with
  | base => rw [firstCode_succ l (by omega), show n.succ - n = 1 by omega, Nat.pow_one]
  | succ m hnm ih =>
    have := ih (by omega)
    rw [firstCode_succ l (by omega), Nat.sub_add_comm (by omega), Nat.pow_succ, ← Nat.mul_assoc]
    omega

theorem Assignable.lookupRow_prefix {l : Vector Byte 256} (h : Assignable l) {k : Fin 256} {n : Nat}
    (hn : n < l[k].toNat) :
    lookupRow (canonTables l) n (symbolCode l k / 2 ^ (l[k].toNat - n)) = none := by
  have hk : l[k] ≠ 0 := toNat_pos_iff.1 (Nat.zero_lt_of_lt hn)
  obtain rfl | hpos := Nat.eq_zero_or_pos n
  · exact lookupRow_zero l _
  · have hle := h.le_64 k
    have hbelow := firstCode_mul_le l hn hle
    rw [getD_lengthCounts l hpos (by omega)] at hbelow
    have habove : firstCode l n + lengthCount l n ≤ symbolCode l k / 2 ^ (l[k].toNat - n) := by
      rw [Nat.le_div_iff_mul_le (Nat.two_pow_pos _), symbolCode, if_neg hk]
      omega
    rw [h.lookupRow_eq hpos (by omega), if_neg (by omega)]

/-! ### The codes as bit strings -/

@[simp] theorem length_lowBits (v n : Nat) : (lowBits v n).length = n := by
  simp [lowBits]

/-- A bit string that begins another one is the higher bits of its number. -/
theorem eq_div_of_lowBits_prefix {v w n m : Nat} (hv : v < 2 ^ n) (hw : w < 2 ^ m)
    (hpre : lowBits v n <+: lowBits w m) : n ≤ m ∧ v = w / 2 ^ (m - n) := by
  have hnm : n ≤ m := by simpa using hpre.length_le
  refine ⟨hnm, Nat.eq_of_testBit_eq fun t => ?_⟩
  rw [Nat.testBit_div_two_pow]
  obtain hlt | hle := Nat.lt_or_ge t n
  · have hbit := hpre.getElem (i := n - 1 - t) (by rw [length_lowBits]; omega)
    simp only [lowBits, List.getElem_map, List.getElem_range] at hbit
    rwa [show n - 1 - (n - 1 - t) = t by omega, show m - 1 - (n - 1 - t) = t + (m - n) by omega] at hbit
  · rw [Nat.testBit_lt_two_pow (hv.trans_le (Nat.pow_le_pow_right (by decide) hle)),
      Nat.testBit_lt_two_pow (hw.trans_le (Nat.pow_le_pow_right (by decide) (by omega)))]

/-- No code begins another symbol's code: the lookup of the shorter one would have to hit and to miss. -/
theorem Assignable.eq_of_prefix {l : Vector Byte 256} (h : Assignable l) {j k : Fin 256} (hj : l[j] ≠ 0)
    (hk : l[k] ≠ 0)
    (hpre : lowBits (symbolCode l j) l[j].toNat <+: lowBits (symbolCode l k) l[k].toNat) : j = k := by
  obtain ⟨hle, hcode⟩ := eq_div_of_lowBits_prefix (h.symbolCode_lt hj) (h.symbolCode_lt hk) hpre
  have hhit := h.lookupRow_symbolCode hj
  obtain hlt | heq := hle.lt_or_eq
  · rw [hcode, h.lookupRow_prefix hlt] at hhit
    exact nomatch hhit
  · rw [hcode, heq, Nat.sub_self, Nat.pow_zero, Nat.div_one, h.lookupRow_symbolCode hk] at hhit
    exact (symbol_injective (Option.some.inj hhit)).symm

/-! ### Codes of one length -/

/-- The next symbol of a length has the next place within it. -/
theorem rankWithin_next {l : Vector Byte 256} {j k : Fin 256} (hjk : j.val < k.val)
    (hbetween : ∀ m : Fin 256, j.val < m.val → m.val < k.val → l[m] ≠ l[j]) :
    rankWithin l l[j].toNat k.val = rankWithin l l[j].toNat j.val + 1 := by
  have hupto (i : Nat) (hi : j.val + 1 ≤ i) (hik : i ≤ k.val) :
      rankWithin l l[j].toNat i = rankWithin l l[j].toNat j.val + 1 := by
    induction i, hi using Nat.le_induction with
    | base => rw [rankWithin_succ, if_pos rfl]
    | succ i hji ih =>
      have hne := hbetween ⟨i, by omega⟩ hji hik
      have hstep := rankWithin_succ l l[j].toNat ⟨i, by omega⟩
      rw [if_neg fun heq => hne (BitVec.eq_of_toNat_eq heq)] at hstep
      exact hstep.trans (ih (by omega))
  exact hupto k.val hjk le_rfl

/-- Settles O34: a code lies in its row, and every proper beginning of it lies above its length's row; so a
lookup decides which code a bit string begins with. -/
theorem canonicalCodesDecodeUniquely : Obligations.CanonicalCodesDecodeUniquely := by
  intro l c hc
  obtain ⟨h, rfl⟩ := assignCodes_eq_ok_iff.1 hc
  refine ⟨fun j k heq hj hjk hbetween => ?_, fun n hn => firstCode_succ l hn.le, fun j k hne hj hk hpre => ?_,
    fun k hk => ?_, fun k n hn => ?_⟩
  · rw [h.toNat_code, h.toNat_code, symbolCode, symbolCode, if_neg hj, if_neg (heq ▸ hj), ← heq,
      rankWithin_next hjk hbetween, Nat.add_assoc]
  · rw [Vector.getElem?_eq_getElem j.isLt, Ne, Option.some.injEq] at hj
    rw [Vector.getElem?_eq_getElem k.isLt, Ne, Option.some.injEq] at hk
    have heq := h.eq_of_prefix (j := ⟨j.toNat, j.isLt⟩) (k := ⟨k.toNat, k.isLt⟩) hj hk hpre
    exact hne (BitVec.eq_of_toNat_eq (congrArg Fin.val heq))
  · rw [h.toNat_code, h.lookupRow_symbolCode hk]
  · rw [h.toNat_code, h.lookupRow_prefix hn]

end Sys2Proof.Machine

namespace Sys2Proof.Machine

/-! PROOFS. The bit stream: bit strings, and the bits the bit writer holds (spec/43_bitstream.md R220 to R224,
R228). -/

/-! ### Words that do not wrap -/

theorem toNat_ofNat_of_lt {w n : Nat} (h : n < 2 ^ w) : (BitVec.ofNat w n).toNat = n := by
  rw [BitVec.toNat_ofNat, Nat.mod_eq_of_lt h]

theorem toNat_add_one {w : Nat} {x : BitVec w} (h : x.toNat + 1 < 2 ^ w) : (x + 1).toNat = x.toNat + 1 := by
  simp [BitVec.toNat_add, Nat.mod_eq_of_lt h]

/-! ### Bit strings -/

@[simp] theorem lowBits_zero (v : Nat) : lowBits v 0 = [] := rfl

/-- The most significant of the low bits comes first. -/
theorem lowBits_succ (v n : Nat) : lowBits v (n + 1) = v.testBit n :: lowBits v n := by
  simp [lowBits, List.range_succ_eq_map, Nat.sub_sub, Nat.add_comm 1]

/-- The low bits of a number with one more bit shifted in at its end. -/
theorem lowBits_shift (v n : Nat) (b : Bool) : lowBits (v * 2 + b.toNat) (n + 1) = lowBits v n ++ [b] := by
  induction n with
  | zero => cases b <;> simp [lowBits_succ]
  | succ n ih =>
    have hhigh : (v * 2 + b.toNat) / 2 = v := by have := b.toNat_le; omega
    rw [lowBits_succ, ih, lowBits_succ, Nat.testBit_succ, hhigh, List.cons_append]

theorem lowBits_mul_two_pow (v n k : Nat) :
    lowBits (v * 2 ^ k) (n + k) = lowBits v n ++ List.replicate k false := by
  induction k with
  | zero => simp
  | succ k ih =>
    have hshift : v * 2 ^ (k + 1) = v * 2 ^ k * 2 + false.toNat := by simp [Nat.pow_succ, Nat.mul_assoc]
    rw [hshift, ← Nat.add_assoc, lowBits_shift, ih, List.append_assoc, List.replicate_succ']

@[simp] theorem bitsOf_nil : bitsOf [] = [] := rfl

theorem bitsOf_append (bs cs : List Byte) : bitsOf (bs ++ cs) = bitsOf bs ++ bitsOf cs :=
  List.flatMap_append

@[simp] theorem bitsOf_singleton (b : Byte) : bitsOf [b] = lowBits b.toNat 8 := List.append_nil _

theorem bitsOf_cons (b : Byte) (bs : List Byte) : bitsOf (b :: bs) = lowBits b.toNat 8 ++ bitsOf bs := rfl

@[simp] theorem length_bitsOf (bs : List Byte) : (bitsOf bs).length = 8 * bs.length := by
  simp [bitsOf, List.length_flatMap, Nat.mul_comm]

/-! ### Bytes in memory -/

theorem memBytes_of_stores {lo hi : Nat} {m m' : Memory} (h : Stores lo hi m m') {a n : Nat} (hle : a + n ≤ lo) :
    memBytes m' a n = memBytes m a n :=
  memBytes_congr fun k hk => h (a + k) (.inl (by omega))

/-- A completed write leaves its bytes at its address. -/
theorem memBytes_memWriteN {p : Config.Params} {m m' : Memory} {a : Nat} {bs : List Byte}
    (h : memWriteN p m a bs = .ok m') : memBytes m' a bs.length = bs := by
  refine List.ext_getElem (by simp) fun k _ hk => ?_
  have hread := (memWriteN_spec h).1 (a + k)
  rw [if_pos ⟨Nat.le_add_right a k, Nat.add_lt_add_left hk a⟩, Nat.add_sub_cancel_left,
    List.getD_eq_getElem _ _ hk] at hread
  simpa [memBytes] using hread

/-! ### What the bit writer holds -/

/-- The invariants of an open writer (43_bitstream.md R220). -/
structure WriterReady (p : Config.Params) (w : Writer) : Prop where
  fits : WriterFits w
  chunk_lt : w.chunk.length < p.chunkBytes
  acc_lt : w.wacc.toNat < 2 ^ w.wnacc.toNat

/-- The bytes an open writer holds: in memory, and in the chunk. -/
def heldBytes (w : Writer) (m : Memory) : List Byte := memBytes m w.wdst.toNat w.wcfl.toNat ++ w.chunk

theorem writerBits_eq (w : Writer) (m : Memory) :
    writerBits w m = bitsOf (heldBytes w m) ++ lowBits w.wacc.toNat w.wnacc.toNat := rfl

theorem WriterFits.length_heldBytes {w : Writer} (h : WriterFits w) (m : Memory) :
    (heldBytes w m).length = w.wpos.toNat := by
  rw [heldBytes, List.length_append, length_memBytes, h.count]

/-- The position of an open writer counts the bits it holds. -/
theorem WriterFits.length_writerBits {w : Writer} (h : WriterFits w) (m : Memory) :
    (writerBits w m).length = 8 * w.wpos.toNat + w.wnacc.toNat := by
  rw [writerBits_eq, List.length_append, length_bitsOf, h.length_heldBytes, length_lowBits]

theorem toNat_wpos_succ {w : Writer} (hroom : w.wpos.toNat < w.wcap.toNat) :
    (w.wpos + 1).toNat = w.wpos.toNat + 1 := by
  have := w.wcap.isLt
  exact toNat_add_one (by omega)

/-- The writer with a byte added to its chunk, not yet written out (43_bitstream.md R222). -/
def Writer.push (w : Writer) (v : Byte) : Writer := { w with chunk := w.chunk ++ [v], wpos := w.wpos + 1 }

theorem WriterFits.push {w : Writer} (h : WriterFits w) (hroom : w.wpos.toNat < w.wcap.toNat) (v : Byte) :
    WriterFits (w.push v) := by
  have hwpos : (w.push v).wpos.toNat = w.wpos.toNat + 1 := toNat_wpos_succ hroom
  refine ⟨?_, hwpos ▸ hroom⟩
  rw [hwpos, ← h.count]
  simp [Writer.push, Nat.add_assoc]

theorem heldBytes_push (w : Writer) (m : Memory) (v : Byte) :
    heldBytes (w.push v) m = heldBytes w m ++ [v] := by
  simp [heldBytes, Writer.push]

/-- `put_byte` with room: the byte joins the chunk, which is written out when it is full. -/
theorem putByte_of_room {p : Config.Params} {w : Writer} {m : Memory} {v : Byte}
    (hroom : w.wpos.toNat < w.wcap.toNat) : putByte p w m v =
      if (w.push v).chunk.length = p.chunkBytes then chunkWrite p (w.push v) m else .ok (w.push v, m) :=
  if_neg (Nat.not_le.2 hroom)

theorem putByte_full {p : Config.Params} {w : Writer} {m : Memory} {v : Byte}
    (hfull : w.wcap.toNat ≤ w.wpos.toNat) : putByte p w m v =
      .error { code := .dstFull, info := w.wpos.toNat + 1, reached := w.nextStore } :=
  if_pos hfull

theorem putByte_room {p : Config.Params} {w : Writer} {m : Memory} {v : Byte} {x : Writer × Memory}
    (h : putByte p w m v = .ok x) : w.wpos.toNat < w.wcap.toNat := by
  refine Nat.lt_of_not_le fun hfull => ?_
  rw [putByte_full hfull] at h
  exact nomatch h

/-! ### What the bit writer's steps keep and add

The partial byte is no concern of the chunk, so a step is described by what it does to the bytes, and only
`putBit` speaks of bits. -/

/-- The writer came from `w` to `x.1`, and memory from `m` to `x.2`, by adding the bytes `bs`; neither WOPEN
nor the partial byte changed. -/
structure BytesAdded (w : Writer) (m : Memory) (bs : List Byte) (x : Writer × Memory) : Prop where
  ran : WriterRan w m x
  wopen : x.1.wopen = w.wopen
  wacc : x.1.wacc = w.wacc
  wnacc : x.1.wnacc = w.wnacc
  held : heldBytes x.1 x.2 = heldBytes w m ++ bs

/-- The writer came from `w` to `x.1`, and memory from `m` to `x.2`, by adding the bits `bits`. -/
structure BitsAdded (p : Config.Params) (w : Writer) (m : Memory) (bits : List Bool) (x : Writer × Memory) :
    Prop where
  ran : WriterRan w m x
  wopen : x.1.wopen = w.wopen
  ready : WriterReady p x.1
  held : writerBits x.1 x.2 = writerBits w m ++ bits

section
variable {p : Config.Params} {w : Writer} {m : Memory}

theorem chunkWrite_adds (hw : WriterFits w) :
    Yields (fun x => BytesAdded w m [] x ∧ x.1.chunk = []) (chunkWrite p w m) := by
  intro x hx
  have hran := chunkWrite_ran hw x hx
  obtain ⟨m', hm', hx⟩ := except_bind_eq_ok.1 hx
  obtain rfl := Except.ok.inj hx
  have hcount := hran.fits.count
  rw [List.length_nil, Nat.add_zero, ← hw.count] at hcount
  have hbelow : memBytes m' w.wdst.toNat w.wcfl.toNat = memBytes m w.wdst.toNat w.wcfl.toNat :=
    memBytes_of_stores (memWriteN_stores p m w.nextStore w.chunk m' hm') le_rfl
  refine ⟨⟨hran, rfl, rfl, rfl, ?_⟩, rfl⟩
  simp only [heldBytes, hcount, memBytes_add, List.append_nil]
  rw [hbelow, show w.wdst.toNat + w.wcfl.toNat = w.nextStore from rfl, memBytes_memWriteN hm']

theorem BytesAdded.trans {bs cs : List Byte} {x y : Writer × Memory} (h1 : BytesAdded w m bs x)
    (h2 : BytesAdded x.1 x.2 cs y) : BytesAdded w m (bs ++ cs) y :=
  ⟨h1.ran.trans h2.ran, h2.wopen.trans h1.wopen, h2.wacc.trans h1.wacc, h2.wnacc.trans h1.wnacc,
    by rw [h2.held, h1.held, List.append_assoc]⟩

theorem BytesAdded.refl (hw : WriterFits w) : BytesAdded w m [] (w, m) :=
  ⟨.refl m hw, rfl, rfl, rfl, (List.append_nil _).symm⟩

/-- WPOS counts the bytes added. -/
theorem BytesAdded.wpos {bs : List Byte} {x : Writer × Memory} (h : BytesAdded w m bs x) (hw : WriterFits w) :
    x.1.wpos.toNat = w.wpos.toNat + bs.length := by
  rw [← h.ran.fits.length_heldBytes x.2, h.held, List.length_append, hw.length_heldBytes]

theorem bytesAdded_push (hw : WriterFits w) (hroom : w.wpos.toNat < w.wcap.toNat) (v : Byte) :
    BytesAdded w m [v] (w.push v, m) :=
  ⟨⟨hw.push hroom v, rfl, rfl, le_rfl, .refl _ _ _⟩, rfl, rfl, rfl, heldBytes_push w m v⟩

/-- A full chunk is written out at once, so the chunk stays below CHUNK_BYTES. -/
theorem putByte_adds (hw : WriterFits w) (hchunk : w.chunk.length < p.chunkBytes) (v : Byte) :
    Yields (fun x => BytesAdded w m [v] x ∧ x.1.chunk.length < p.chunkBytes) (putByte p w m v) := by
  intro x hx
  have hroom := putByte_room hx
  have hpush := bytesAdded_push (m := m) hw hroom v
  rw [putByte_of_room hroom] at hx
  split at hx
  · obtain ⟨hadds, hempty⟩ := chunkWrite_adds hpush.ran.fits x hx
    refine ⟨hpush.trans hadds, ?_⟩
    rw [hempty]
    exact Nat.zero_lt_of_lt hchunk
  next hne =>
    obtain rfl := Except.ok.inj hx
    refine ⟨hpush, Nat.lt_of_le_of_ne ?_ hne⟩
    simpa [Writer.push] using hchunk

theorem toNat_acc {b : Bool} (hacc : w.wacc.toNat < 2 ^ w.wnacc.toNat) :
    (BitVec.ofNat 8 (w.wacc.toNat * 2 + b.toNat)).toNat = w.wacc.toNat * 2 + b.toNat := by
  have hpow : 2 ^ w.wnacc.toNat ≤ 2 ^ 7 := Nat.pow_le_pow_right (by decide) (Nat.le_of_lt_succ w.wnacc.isLt)
  have hbit := b.toNat_le
  exact toNat_ofNat_of_lt (by omega)

theorem putBit_adds (hw : WriterReady p w) (b : Bool) : Yields (BitsAdded p w m [b]) (putBit p w m b) := by
  have hacc : (BitVec.ofNat 8 (w.wacc.toNat * 2 + b.toNat)).toNat = w.wacc.toNat * 2 + b.toNat :=
    toNat_acc hw.acc_lt
  intro x hx
  have hran := putBit_ran b hw.fits x hx
  unfold putBit at hx
  dsimp only at hx
  split at hx
  next hfull =>
    obtain ⟨y, hy, hx⟩ := except_bind_eq_ok.1 hx
    obtain rfl := Except.ok.inj hx
    obtain ⟨hadds, hchunk⟩ := putByte_adds hw.fits hw.chunk_lt _ y hy
    refine ⟨hran, hadds.wopen, ⟨hran.fits, hchunk, Nat.one_pos⟩, ?_⟩
    have hheld : writerBits { y.1 with wacc := 0, wnacc := 0 } y.2 = bitsOf (heldBytes y.1 y.2) :=
      List.append_nil _
    have hbyte := lowBits_shift w.wacc.toNat w.wnacc.toNat b
    rw [hfull] at hbyte
    rw [hheld, hadds.held, bitsOf_append, bitsOf_singleton, hacc, hbyte, writerBits_eq, List.append_assoc]
  next hlow =>
    obtain rfl := Except.ok.inj hx
    have hwnacc : (w.wnacc + 1).toNat = w.wnacc.toNat + 1 := by
      have := w.wnacc.isLt
      exact toNat_add_one (by omega)
    refine ⟨hran, rfl, ⟨hran.fits, hw.chunk_lt, ?_⟩, ?_⟩
    · have := hw.acc_lt
      have hbit := b.toNat_le
      simp only [hacc, hwnacc, Nat.pow_succ]
      omega
    · rw [writerBits_eq, hwnacc, hacc, lowBits_shift, writerBits_eq, List.append_assoc]
      rfl

theorem BitsAdded.refl (hw : WriterReady p w) : BitsAdded p w m [] (w, m) :=
  ⟨.refl m hw.fits, rfl, hw, (List.append_nil _).symm⟩

theorem BitsAdded.trans {bs cs : List Bool} {x y : Writer × Memory} (h1 : BitsAdded p w m bs x)
    (h2 : BitsAdded p x.1 x.2 cs y) : BitsAdded p w m (bs ++ cs) y :=
  ⟨h1.ran.trans h2.ran, h2.wopen.trans h1.wopen, h2.ready, by rw [h2.held, h1.held, List.append_assoc]⟩

theorem writeBits_adds (hw : WriterReady p w) (bits : Word) (n : Nat) :
    Yields (BitsAdded p w m (lowBits bits.toNat n)) (writeBits p bits n w m) := by
  induction n generalizing w m with
  | zero => exact yields_ok (.refl hw)
  | succ n ih =>
    rw [lowBits_succ]
    exact (putBit_adds hw (containerBit bits n)).bind fun _ h => (ih h.ready).imp fun _ => h.trans

/-- WPOS and WNACC count the bits added. -/
theorem BitsAdded.count {bs : List Bool} {x : Writer × Memory} (h : BitsAdded p w m bs x) (hw : WriterFits w) :
    8 * x.1.wpos.toNat + x.1.wnacc.toNat = 8 * w.wpos.toNat + w.wnacc.toNat + bs.length := by
  rw [← h.ran.fits.length_writerBits x.2, h.held, List.length_append, hw.length_writerBits]

/-! ### When the bit writer's steps complete -/

theorem Writable.sub {p : Config.Params} {a n b k : Nat} (h : Writable p a n) (hlo : a ≤ b)
    (hhi : b + k ≤ a + n) : Writable p b k := fun j hj => by
  have hj' := h (b - a + j) (by omega)
  rwa [show a + (b - a + j) = b + j by omega] at hj'

/-- The chunk lies below WDST + WPOS. -/
theorem exists_chunkWrite_eq_ok (hw : WriterFits w) (hwritable : Writable p w.wdst.toNat w.wpos.toNat) :
    ∃ x, chunkWrite p w m = .ok x := by
  have hcount := hw.count
  obtain ⟨m', hm'⟩ := memWriteN_ok (m := m) (a := w.nextStore) (bs := w.chunk)
    (hwritable.sub (Nat.le_add_right _ _) (by rw [Writer.nextStore]; omega))
  exact ⟨_, except_bind_eq_ok.2 ⟨m', hm', rfl⟩⟩

theorem exists_putByte_eq_ok (hw : WriterFits w) (hroom : w.wpos.toNat < w.wcap.toNat) (v : Byte)
    (hwritable : Writable p w.wdst.toNat (w.wpos.toNat + 1)) : ∃ x, putByte p w m v = .ok x := by
  rw [putByte_of_room hroom]
  split
  · exact exists_chunkWrite_eq_ok (hw.push hroom v) ((toNat_wpos_succ hroom).symm ▸ hwritable)
  · exact ⟨_, rfl⟩

theorem exists_putBit_eq_ok (hw : WriterFits w)
    (hroom : (8 * w.wpos.toNat + w.wnacc.toNat + 1) / 8 ≤ w.wcap.toNat)
    (hwritable : Writable p w.wdst.toNat w.wcap.toNat) (b : Bool) : ∃ x, putBit p w m b = .ok x := by
  unfold putBit
  dsimp only
  split
  · obtain ⟨x, hx⟩ := exists_putByte_eq_ok (m := m) hw (by omega)
      (BitVec.ofNat 8 (w.wacc.toNat * 2 + b.toNat)) (hwritable.sub le_rfl (by omega))
    exact ⟨_, except_bind_eq_ok.2 ⟨x, hx, rfl⟩⟩
  · exact ⟨_, rfl⟩

/-- With room for every byte they fill, the bits are written. -/
theorem exists_writeBits_eq_ok (hw : WriterReady p w) (bits : Word) {n : Nat}
    (hroom : (8 * w.wpos.toNat + w.wnacc.toNat + n) / 8 ≤ w.wcap.toNat)
    (hwritable : Writable p w.wdst.toNat w.wcap.toNat) : ∃ x, writeBits p bits n w m = .ok x := by
  induction n generalizing w m with
  | zero => exact ⟨_, rfl⟩
  | succ n ih =>
    obtain ⟨y, hy⟩ := exists_putBit_eq_ok (m := m) hw.fits (by omega) hwritable (containerBit bits n)
    have hadds := putBit_adds hw _ y hy
    have hcount := hadds.count hw.fits
    rw [List.length_singleton] at hcount
    obtain ⟨x, hx⟩ := ih (m := y.2) hadds.ready (by rw [hadds.ran.wcap]; omega)
      (by rwa [hadds.ran.wdst, hadds.ran.wcap])
    exact ⟨x, except_bind_eq_ok.2 ⟨y, hy, hx⟩⟩

theorem putBit_full {b : Bool} (hwnacc : w.wnacc.toNat + 1 = 8) (hfull : w.wcap.toNat ≤ w.wpos.toNat) :
    putBit p w m b = .error { code := .dstFull, info := w.wpos.toNat + 1, reached := w.nextStore } := by
  unfold putBit
  dsimp only
  rw [if_pos hwnacc, putByte_full hfull]
  rfl

/-- Without room for some byte the writing stops at the first such, which is byte number WCAP + 1. -/
theorem writeBits_full (hw : WriterReady p w) (bits : Word) {n : Nat}
    (hfull : w.wcap.toNat < (8 * w.wpos.toNat + w.wnacc.toNat + n) / 8)
    (hwritable : Writable p w.wdst.toNat w.wcap.toNat) :
    ∃ k, writeBits p bits n w m = .error { code := .dstFull, info := w.wcap.toNat + 1, reached := k } := by
  have hpos := hw.fits.room
  have hnacc := w.wnacc.isLt
  induction n generalizing w m with
  | zero => omega
  | succ n ih =>
    by_cases hroom : (8 * w.wpos.toNat + w.wnacc.toNat + 1) / 8 ≤ w.wcap.toNat
    · obtain ⟨y, hy⟩ := exists_putBit_eq_ok (m := m) hw.fits hroom hwritable (containerBit bits n)
      have hadds := putBit_adds hw _ y hy
      have hcount := hadds.count hw.fits
      rw [List.length_singleton] at hcount
      obtain ⟨k, hk⟩ := ih (m := y.2) hadds.ready (by rw [hadds.ran.wcap]; omega)
        (by rwa [hadds.ran.wdst, hadds.ran.wcap]) hadds.ready.fits.room y.1.wnacc.isLt
      rw [hadds.ran.wcap] at hk
      exact ⟨k, except_bind_eq_error.2 (.inr ⟨y, hy, hk⟩)⟩
    · have heq : w.wpos.toNat = w.wcap.toNat := by omega
      have hput := putBit_full (p := p) (m := m) (b := containerBit bits n) (by omega) heq.ge
      rw [heq] at hput
      exact ⟨_, except_bind_eq_error.2 (.inl hput)⟩

/-! ### The flush -/

/-- A partial byte of `n` bits, padded with zero bits to a whole byte. -/
theorem lowBits_padded (hacc : w.wacc.toNat < 2 ^ w.wnacc.toNat) (hpos : 0 < w.wnacc.toNat) :
    lowBits (BitVec.ofNat 8 (w.wacc.toNat * 2 ^ padBits w)).toNat 8 =
      lowBits w.wacc.toNat w.wnacc.toNat ++ List.replicate (padBits w) false := by
  have hlt := w.wnacc.isLt
  have hpad : w.wnacc.toNat + padBits w = 8 := by rw [padBits]; omega
  have hbyte := Nat.mul_lt_mul_of_pos_right hacc (Nat.two_pow_pos (padBits w))
  rw [← Nat.pow_add, hpad] at hbyte
  rw [toNat_ofNat_of_lt hbyte, ← lowBits_mul_two_pow, hpad]

/-- The first step of a flush: the partial byte, if there is one, padded to a whole byte (43_bitstream.md
R228). -/
def putPadded (p : Config.Params) (w : Writer) (m : Memory) : Except CmdError (Writer × Memory) :=
  if 0 < w.wnacc.toNat then putByte p w m (BitVec.ofNat 8 (w.wacc.toNat * 2 ^ padBits w)) else .ok (w, m)

theorem flushWriter_eq_putPadded_bind (p : Config.Params) (w : Writer) (m : Memory) :
    flushWriter p w m = putPadded p w m >>= fun x => chunkWrite p x.1 x.2 :=
  flushWriter_eq p w m

theorem exists_putPadded_eq_ok (hw : WriterReady p w)
    (hroom : bytesFor (8 * w.wpos.toNat + w.wnacc.toNat) ≤ w.wcap.toNat)
    (hwritable : Writable p w.wdst.toNat (bytesFor (8 * w.wpos.toNat + w.wnacc.toNat))) :
    ∃ x bs, putPadded p w m = .ok x ∧ BytesAdded w m bs x ∧
      x.1.wpos.toNat = bytesFor (8 * w.wpos.toNat + w.wnacc.toNat) ∧
      bitsOf bs = lowBits w.wacc.toNat w.wnacc.toNat ++ List.replicate (padBits w) false := by
  have hlt := w.wnacc.isLt
  unfold bytesFor at hroom hwritable ⊢
  unfold putPadded
  split
  next hpos =>
    obtain ⟨x, hx⟩ := exists_putByte_eq_ok (m := m) hw.fits (by omega)
      (BitVec.ofNat 8 (w.wacc.toNat * 2 ^ padBits w)) (hwritable.sub le_rfl (by omega))
    have hadds := (putByte_adds hw.fits hw.chunk_lt _ x hx).1
    have hwpos := hadds.wpos hw.fits
    rw [List.length_singleton] at hwpos
    exact ⟨x, _, hx, hadds, by omega, by rw [bitsOf_singleton, lowBits_padded hw.acc_lt hpos]⟩
  next hzero =>
    have hnacc : w.wnacc.toNat = 0 := Nat.eq_zero_of_not_pos hzero
    exact ⟨_, [], rfl, .refl hw.fits, by simp only; omega, by simp [padBits, hnacc]⟩

/-- The flush leaves all its bits in memory, padded with zero bits to whole bytes. -/
theorem exists_flushWriter_eq_ok (hw : WriterReady p w)
    (hroom : bytesFor (8 * w.wpos.toNat + w.wnacc.toNat) ≤ w.wcap.toNat)
    (hwritable : Writable p w.wdst.toNat (bytesFor (8 * w.wpos.toNat + w.wnacc.toNat))) :
    ∃ x, flushWriter p w m = .ok x ∧ WriterRan w m x ∧ x.1.chunk = [] ∧
      x.1.wpos.toNat = bytesFor (8 * w.wpos.toNat + w.wnacc.toNat) ∧
      bitsOf (heldBytes x.1 x.2) = writerBits w m ++ List.replicate (padBits w) false := by
  obtain ⟨y, bs, hy, hadds, hwpos, hbits⟩ := exists_putPadded_eq_ok (m := m) hw hroom hwritable
  obtain ⟨x, hx⟩ := exists_chunkWrite_eq_ok (m := y.2) hadds.ran.fits (by rwa [hadds.ran.wdst, hwpos])
  obtain ⟨hwritten, hempty⟩ := chunkWrite_adds hadds.ran.fits x hx
  refine ⟨x, ?_, hadds.ran.trans hwritten.ran, hempty, (hwritten.wpos hadds.ran.fits).trans hwpos, ?_⟩
  · rw [flushWriter_eq_putPadded_bind]
    exact except_bind_eq_ok.2 ⟨y, hy, hx⟩
  · rw [hwritten.held, List.append_nil, hadds.held, bitsOf_append, hbits, writerBits_eq, List.append_assoc]

end

end Sys2Proof.Machine

namespace Sys2Proof.Machine

/-! PROOFS. The bit stream: the commands of the bit writer (spec/43_bitstream.md R222, R226 to R229). -/

/-! ### How a command of the bit writer ends -/

theorem WriterSound.ready {p : Config.Params} {w : Writer} (h : WriterSound p w) (ho : w.wopen = true) :
    WriterReady p w := by
  obtain ⟨-, -, hchunk, hacc, -⟩ := h.2 ho
  exact ⟨h.fits ho, hchunk, hacc⟩

/-- A command of the bit writer reads no memory, so its ranges do not overlap. -/
theorem exec_writer_eq_finished {i : Instr} {s : State} {d : Done} (hi : i ∈ [.bwWrite, .bwSym, .bwFlush])
    (hc : contextPresent i s = true) (hrace : RaceFree s) (hbody : bodyOf i s = .ok d)
    (hdraws : d.state.draws = s.draws) :
    exec i s = .next (finished d.state d.r0 d.r1 d.r2 d.r3) := by
  have hoverlap : OverlapFree i s := by
    cases i with
    | bwWrite | bwSym | bwFlush => rfl
    | _ => exact absurd hi (by decide)
  rw [exec_eq_runCommand, runCommand_ok hc hbody, completed_eq_finished hoverlap hrace rfl hdraws]

/-- A failed command of the bit writer reports its error and closes the writer (43_bitstream.md R238). -/
theorem exec_writer_fails {i : Instr} {s : State} {r : Raised} (hi : i ∈ [.bwWrite, .bwSym])
    (hc : contextPresent i s = true) (hbody : bodyOf i s = .error r) (hinfo : r.error.info < addressLimit) :
    ∃ t, exec i s = .next t ∧ t.err = true ∧ t.errcode = r.error.code.byte ∧
      t.errinfo = BitVec.ofNat 64 r.error.info ∧ t.writer = Writer.closed := by
  refine ⟨_, (exec_eq_runCommand i s).trans (runCommand_error hc hbody), rfl, rfl, if_pos hinfo, ?_⟩
  cases i with
  | bwWrite | bwSym => rfl
  | _ => exact absurd hi (by decide)

/-! ### Adding bits -/

/-- What a command that adds `bits` to an open writer leaves of the writer and memory (43_bitstream.md
R221 to R224): the bits, their count, an open writer on the same destination, and every byte but those of the
chunks it wrote. -/
theorem BitsAdded.effect {p : Config.Params} {w : Writer} {m : Memory} {bits : List Bool} {x : Writer × Memory}
    (h : BitsAdded p w m bits x) (hw : WriterFits w) (ho : w.wopen = true) :
    writerBits x.1 x.2 = writerBits w m ++ bits ∧
      8 * x.1.wpos.toNat + x.1.wnacc.toNat = 8 * w.wpos.toNat + w.wnacc.toNat + bits.length ∧
      x.1.wopen = true ∧ x.1.wdst = w.wdst ∧ x.1.wcap = w.wcap ∧
      ∀ a, inRange ⟨w.wdst.toNat + w.wcfl.toNat, w.wdst.toNat + x.1.wcfl.toNat⟩ a = false →
        readByte x.2 a = readByte m a := by
  refine ⟨h.held, h.count hw, h.wopen.trans ho, h.ran.wdst, h.ran.wcap, fun a ha => h.ran.stores a ?_⟩
  rw [← Bool.not_eq_true, inRange_eq_true] at ha
  dsimp only at ha
  rw [Writer.nextStore, Writer.nextStore, h.ran.wdst]
  omega

/-- Bits for which a sound writer has room are added. -/
theorem exists_writeBits_adds {s : State} (hs : WriterSound s.params s.writer) (ho : s.writer.wopen = true)
    (bits : Word) {n : Nat}
    (hroom : (8 * s.writer.wpos.toNat + s.writer.wnacc.toNat + n) / 8 ≤ s.writer.wcap.toNat)
    (hwritable : Writable s.params s.writer.wdst.toNat s.writer.wcap.toNat) :
    ∃ x, writeBits s.params bits n s.writer s.mem = .ok x ∧
      BitsAdded s.params s.writer s.mem (lowBits bits.toNat n) x := by
  obtain ⟨x, hx⟩ := exists_writeBits_eq_ok (m := s.mem) (hs.ready ho) bits hroom hwritable
  exact ⟨x, hx, writeBits_adds (hs.ready ho) bits n x hx⟩

/-! ### BW_WRITE -/

theorem checkCount_eq_ok {value index : Nat} (h : value ≤ 64) : checkCount value index = .ok () :=
  failIf_eq_ok.2 (decide_eq_false (Nat.not_lt.2 h))

/-- Settles O35: the writer has room for every byte the bits fill, so no step of the writing fails. -/
theorem bwWriteAppendsBits : Obligations.BwWriteAppendsBits := by
  intro s ho hs hrace hcount hroom hwritable
  obtain ⟨x, hx, hadds⟩ := exists_writeBits_adds hs ho s.latch.a[0] hroom hwritable
  have hbody : bodyOf .bwWrite s = .ok
      { state := { s with writer := x.1, mem := x.2 }, r0 := x.1.wpos.toNat
        written := storedRange s.writer x.1 } :=
    except_bind_eq_ok.2 ⟨(), raisedIn_eq_ok.2 (checkCount_eq_ok hcount),
      except_bind_eq_ok.2 ⟨x, raisedIn_eq_ok.2 hx, rfl⟩⟩
  refine ⟨_, exec_writer_eq_finished (by decide) ho hrace hbody rfl, rfl, ?_⟩
  have heffect := hadds.effect (hs.fits ho) ho
  rwa [length_lowBits] at heffect

/-- Settles O38: the writing stops at the first byte without room, whose number is WCAP + 1. -/
theorem fullDestinationIsDstFull : Obligations.FullDestinationIsDstFull := by
  intro s _ ho hs hcount hfull hinfo hwritable
  obtain ⟨k, hk⟩ := writeBits_full (m := s.mem) (hs.ready ho) s.latch.a[0] hfull hwritable
  have hbody : bodyOf .bwWrite s = .error
      { error := { code := .dstFull, info := s.writer.wcap.toNat + 1, reached := k }, state := s } :=
    except_bind_eq_error.2 (.inr ⟨(), raisedIn_eq_ok.2 (checkCount_eq_ok hcount),
      except_bind_eq_error.2 (.inl (raisedIn_eq_error.2 ⟨_, hk, rfl⟩))⟩)
  obtain ⟨t, hexec, herr, hcode, hdetail, hclosed⟩ :=
    exec_writer_fails (i := .bwWrite) (by decide) ho hbody hinfo
  refine ⟨t, hexec, herr, hcode, ?_, hclosed⟩
  rw [hdetail, toNat_ofNat_of_lt hinfo]

/-! ### BW_SYM -/

theorem symbolTables_of_lt (s : State) (k : Fin 256) :
    symbolTables s k.val = (s.len[k].toNat, s.canon.code[k]) := by
  simp [symbolTables]

theorem checkSym_eq_ok {value index : Nat} (h : value < 256) : checkSym value index = .ok () :=
  failIf_eq_ok.2 (decide_eq_false (Nat.not_lt.2 (Nat.le_of_lt_succ h)))

/-- BW_SYM of a symbol in range goes on with the check that the symbol is present, and its code. -/
theorem bwSym_of_lt {s : State} {k : Fin 256} (hk : a0 s = k.val) : bwSym s = (do
    raisedIn s (failIf (decide (s.len[k].toNat = 0)) .symbolAbsent k.val)
    let x ← raisedIn s (writeBits s.params s.canon.code[k] s.len[k].toNat s.writer s.mem)
    .ok { state := { s with writer := x.1, mem := x.2 }, r0 := x.1.wpos.toNat, r1 := s.len[k].toNat
          written := storedRange s.writer x.1 }) := by
  unfold bwSym
  rw [hk, checkSym_eq_ok k.isLt, symbolTables_of_lt]
  rfl

/-- Settles O36: the number is checked first, then that the symbol is present; its code is then written as
BW_WRITE writes bits. -/
theorem bwSymAppendsTheCode : Obligations.BwSymAppendsTheCode := by
  intro s ho hcanon
  have hc : contextPresent .bwSym s = true := Bool.and_eq_true_iff.2 ⟨ho, hcanon⟩
  refine ⟨fun k hk hpresent hs hrace hroom hwritable => ?_, fun _ hbig => ?_, fun k _ hk habsent => ?_⟩
  · obtain ⟨x, hx, hadds⟩ := exists_writeBits_adds hs ho s.canon.code[k] hroom hwritable
    have hlen : failIf (decide (s.len[k].toNat = 0)) .symbolAbsent k.val = .ok () :=
      failIf_eq_ok.2 (decide_eq_false (toNat_pos_iff.2 hpresent).ne')
    have hbody := (bwSym_of_lt hk).trans (except_bind_eq_ok.2
      ⟨(), raisedIn_eq_ok.2 hlen, except_bind_eq_ok.2 ⟨x, raisedIn_eq_ok.2 hx, rfl⟩⟩)
    refine ⟨_, exec_writer_eq_finished (i := .bwSym) (by decide) hc hrace hbody rfl, rfl, ?_⟩
    have heffect := hadds.effect (hs.fits ho) ho
    rwa [length_lowBits] at heffect
  · have hbody : bodyOf .bwSym s = .error { error := { code := .badArg, info := 0 }, state := s } :=
      except_bind_eq_error.2 (.inl (raisedIn_eq_error.2 ⟨_, failIf_eq_error.2 ⟨decide_eq_true hbig, rfl⟩, rfl⟩))
    exact exec_writer_fails (by decide) hc hbody (Nat.two_pow_pos 64)
  · have hlen : failIf (decide (s.len[k].toNat = 0)) .symbolAbsent k.val =
        .error { code := .symbolAbsent, info := k.val } :=
      failIf_eq_error.2 ⟨by simp [habsent], rfl⟩
    have hbody := (bwSym_of_lt hk).trans
      (except_bind_eq_error.2 (.inl (raisedIn_eq_error.2 ⟨_, hlen, rfl⟩)))
    obtain ⟨t, hexec, herr, hcode, hdetail, hclosed⟩ :=
      exec_writer_fails (i := .bwSym) (by decide) hc hbody (k.isLt.trans (by decide))
    refine ⟨t, hexec, herr, hcode, ?_, hclosed⟩
    rw [hdetail, ← hk, a0, BitVec.ofNat_toNat, BitVec.setWidth_eq]

/-! ### BW_FLUSH -/

/-- Settles O37: the flush leaves every bit in memory, and no chunk, so the bytes below WPOS are the bits. -/
theorem bwFlushPadsAndCloses : Obligations.BwFlushPadsAndCloses := by
  rintro s p ho hs hrace rfl hroom hwritable
  have hspace : s.writer.wdst.toNat + s.writer.wcap.toNat ≤ addressLimit := (hs.2 ho).2.2.2.2
  obtain ⟨x, hx, hran, hempty, hwpos, hbits⟩ :=
    exists_flushWriter_eq_ok (m := s.mem) (hs.ready ho) hroom hwritable
  have hbody : bodyOf .bwFlush s = .ok
      { state := closeWriter { s with mem := x.2 }, r0 := padBits s.writer, r1 := x.1.wpos.toNat
        written := storedRange s.writer x.1 } :=
    except_bind_eq_ok.2 ⟨x, raisedIn_eq_ok.2 hx, rfl⟩
  have hcfl : x.1.wcfl.toNat = x.1.wpos.toNat := by
    rw [← hran.fits.count, hempty, List.length_nil, Nat.add_zero]
  refine ⟨_, padBits s.writer, exec_writer_eq_finished (by decide) ho hrace hbody rfl, rfl, ?_, ?_,
    fun a ha => hran.stores a ?_⟩
  · rw [← hwpos]
    rfl
  · rw [← hbits, heldBytes, hempty, List.append_nil, hran.wdst, hcfl, hwpos]
    rfl
  · have hstart : s.writer.wdst.toNat ≤ s.writer.nextStore := Nat.le_add_right _ _
    have hend := hran.nextStore_le_wpos
    rw [hwpos] at hend
    rw [← Bool.not_eq_true, inRange_rangeOf] at ha
    omega

end Sys2Proof.Machine

namespace Sys2Proof.Machine

/-! PROOFS. The bit stream: the bit reader and its commands (spec/43_bitstream.md R225, R231 to R237). -/

/-! ### What the bit reader holds -/

theorem readerBits_of_rnb_zero {r : Reader} (hnb : r.rnb = 0) (m : Memory) :
    readerBits r m = bitsOf (memBytes m (r.rsrc.toNat + r.rpos.toNat) (r.rlen.toNat - r.rpos.toNat)) := by
  simp [readerBits, hnb]

theorem rnb_pos_iff {r : Reader} : 0 < r.rnb.toNat ↔ r.rnb ≠ 0 := by
  rw [Nat.pos_iff_ne_zero, Ne, Ne, ← BitVec.toNat_inj]
  rfl

/-- A reader that holds no bit is at its end. -/
theorem readerBits_eq_nil {r : Reader} {m : Memory} (h : readerBits r m = []) :
    r.rnb = 0 ∧ r.rlen.toNat ≤ r.rpos.toNat := by
  have hlen := congrArg List.length h
  simp only [readerBits, List.length_append, length_lowBits, length_bitsOf, length_memBytes,
    List.length_nil] at hlen
  exact ⟨BitVec.eq_of_toNat_eq (by simpa using by omega), by omega⟩

/-- The reader after the next of the bits it holds of its byte (43_bitstream.md R231). -/
def Reader.shifted (r : Reader) : Reader := { r with rnb := r.rnb - 1 }

theorem toNat_rnb_shifted {r : Reader} (hnb : r.rnb ≠ 0) : r.shifted.rnb.toNat + 1 = r.rnb.toNat := by
  have hpos := rnb_pos_iff.2 hnb
  have hone : (1 : BitVec 4) ≤ r.rnb := BitVec.le_def.2 hpos
  rw [show r.shifted.rnb = r.rnb - 1 from rfl, BitVec.toNat_sub_of_le hone]
  exact Nat.sub_add_cancel hpos

theorem readerBits_shifted {r : Reader} (hnb : r.rnb ≠ 0) (m : Memory) :
    readerBits r m = r.rbyte.getLsbD (r.rnb.toNat - 1) :: readerBits r.shifted m := by
  rw [readerBits, ← toNat_rnb_shifted hnb, lowBits_succ]
  rfl

/-- The reader that holds the byte `b`, the next of its source, and has returned the first bit of it
(43_bitstream.md R231). -/
def Reader.refilled (r : Reader) (b : Byte) : Reader := { r with rbyte := b, rpos := r.rpos + 1, rnb := 7 }

theorem toNat_rpos_refilled {r : Reader} (hpos : r.rpos.toNat < r.rlen.toNat) (b : Byte) :
    (r.refilled b).rpos.toNat = r.rpos.toNat + 1 := by
  have := r.rlen.isLt
  exact toNat_add_one (by omega)

theorem readerBits_refilled {r : Reader} {m : Memory} (hnb : r.rnb = 0) (hpos : r.rpos.toNat < r.rlen.toNat) :
    readerBits r m = (readByte m (r.rsrc.toNat + r.rpos.toNat)).getLsbD 7 ::
      readerBits (r.refilled (readByte m (r.rsrc.toNat + r.rpos.toNat))) m := by
  have hleft : r.rlen.toNat - r.rpos.toNat = r.rlen.toNat - (r.rpos.toNat + 1) + 1 := by omega
  rw [readerBits_of_rnb_zero hnb, hleft, memBytes_succ, bitsOf_cons, lowBits_succ, readerBits,
    toNat_rpos_refilled hpos]
  rfl

/-! ### Reading a bit -/

/-- The readers that come from `r` by reading: open as `r` is, on the same source, further on. -/
structure ReaderRan (r r' : Reader) : Prop where
  ropen : r'.ropen = r.ropen
  rsrc : r'.rsrc = r.rsrc
  rlen : r'.rlen = r.rlen
  rises : r.rpos.toNat ≤ r'.rpos.toNat
  rpos_le : r.rpos.toNat ≤ r.rlen.toNat → r'.rpos.toNat ≤ r.rlen.toNat
  rnb_le : r.rnb.toNat ≤ 8 → r'.rnb.toNat ≤ 8

theorem ReaderRan.refl (r : Reader) : ReaderRan r r := ⟨rfl, rfl, rfl, le_rfl, id, id⟩

theorem ReaderRan.trans {r r' r'' : Reader} (h : ReaderRan r r') (h' : ReaderRan r' r'') : ReaderRan r r'' :=
  ⟨h'.ropen.trans h.ropen, h'.rsrc.trans h.rsrc, h'.rlen.trans h.rlen, h.rises.trans h'.rises,
    fun hle => h.rlen ▸ h'.rpos_le (h.rlen.symm ▸ h.rpos_le hle), fun hle => h'.rnb_le (h.rnb_le hle)⟩

theorem readerRan_shifted {r : Reader} (hnb : r.rnb ≠ 0) : ReaderRan r r.shifted :=
  ⟨rfl, rfl, rfl, le_rfl, id, fun hle => by have := toNat_rnb_shifted hnb; omega⟩

theorem readerRan_refilled {r : Reader} (hpos : r.rpos.toNat < r.rlen.toNat) (b : Byte) :
    ReaderRan r (r.refilled b) := by
  have hrpos := toNat_rpos_refilled hpos b
  exact ⟨rfl, rfl, rfl, by omega, fun _ => by omega, fun _ => show (7 : BitVec 4).toNat ≤ 8 by decide⟩

section
variable {v : View} {r : Reader}

theorem readBit_of_rnb_ne_zero (hnb : r.rnb ≠ 0) :
    readBit v r = .ok (some (r.rbyte.getLsbD (r.rnb.toNat - 1)), r.shifted) :=
  if_neg hnb

theorem readBit_at_end (hnb : r.rnb = 0) (hend : r.rlen.toNat ≤ r.rpos.toNat) : readBit v r = .ok (none, r) :=
  (if_pos hnb).trans (if_pos hend)

theorem readBit_of_refill (hnb : r.rnb = 0) (hpos : r.rpos.toNat < r.rlen.toNat) :
    readBit v r = memRead v (r.rsrc.toNat + r.rpos.toNat) >>= fun b =>
      .ok (some (b.getLsbD 7), r.refilled b) :=
  (if_pos hnb).trans (if_neg (Nat.not_le.2 hpos))

theorem readBit_ran : Yields (fun x => ReaderRan r x.2) (readBit v r) := by
  by_cases hnb : r.rnb = 0
  · obtain hend | hpos := le_or_gt r.rlen.toNat r.rpos.toNat
    · rw [readBit_at_end hnb hend]
      exact yields_ok (.refl r)
    · rw [readBit_of_refill hnb hpos]
      exact yields_bind fun b _ => yields_ok (readerRan_refilled hpos b)
  · rw [readBit_of_rnb_ne_zero hnb]
    exact yields_ok (readerRan_shifted hnb)

/-- The next bit the reader holds is read, if its refill gives the byte in memory. -/
theorem readBit_next {m : Memory} {b : Bool} {rest : List Bool} (hbits : readerBits r m = b :: rest)
    (hread : r.rnb = 0 → r.rpos.toNat < r.rlen.toNat →
      memRead v (r.rsrc.toNat + r.rpos.toNat) = .ok (readByte m (r.rsrc.toNat + r.rpos.toNat))) :
    ∃ r', readBit v r = .ok (some b, r') ∧ readerBits r' m = rest := by
  by_cases hnb : r.rnb = 0
  · obtain hend | hpos := le_or_gt r.rlen.toNat r.rpos.toNat
    · rw [readerBits_of_rnb_zero hnb, Nat.sub_eq_zero_of_le hend] at hbits
      exact nomatch hbits
    · rw [readerBits_refilled hnb hpos] at hbits
      obtain ⟨rfl, rfl⟩ := List.cons.inj hbits
      exact ⟨_, (readBit_of_refill hnb hpos).trans (except_bind_eq_ok.2 ⟨_, hread hnb hpos, rfl⟩), rfl⟩
  · rw [readerBits_shifted hnb] at hbits
    obtain ⟨rfl, rfl⟩ := List.cons.inj hbits
    exact ⟨_, readBit_of_rnb_ne_zero hnb, rfl⟩

end

/-- Without a race, a command that stores nothing reads a readable byte as memory holds it. -/
theorem memRead_viewOf {i : Instr} {s : State} {a : Nat} (hw : writeRanges i s = []) (hrace : RaceFree s)
    (hread : Readable s.params a 1) : memRead (viewOf i s 0) a = .ok (readByte s.mem a) := by
  obtain ⟨hadmits, hside⟩ := hread 0 Nat.one_pos
  rw [Nat.add_zero] at hadmits hside
  refine (if_pos hadmits).trans ?_
  rw [viewByte_viewOf 0 hw hside, if_neg (hrace ▸ List.not_mem_nil)]

/-! ### How a command that stores nothing fails -/

theorem failureEffects_mem (i : Instr) (s : State) : (failureEffects i s).mem = s.mem := by
  cases i <;> rfl

/-- A failure that leaves no byte unspecified changes nothing but the error report and what it closes. -/
theorem exec_eq_failedWith_effects {i : Instr} {s : State} {c : ErrCode} {info : Nat}
    (hc : contextPresent i s = true) (hranges : failureRanges i s = []) (hinfo : info < addressLimit)
    (hbody : bodyOf i s = .error { error := { code := c, info := info }, state := s }) :
    exec i s = .next (failedWith (failureEffects i s) c.byte info) := by
  rw [exec_eq_runCommand, runCommand_error hc hbody, ← deliver_eq_failedWith _ c hinfo]
  simp [State.raise, hranges, havocAll, ← failureEffects_mem i s]

/-! ### Opening and closing -/

/-- Settles O39: after the range check the unit is set, whatever it was. -/
theorem streamUnitsOpenAndClose : Obligations.StreamUnitsOpenAndClose := by
  refine ⟨fun s hrange => ⟨?_, ?_⟩, fun s => ?_⟩
  · have hbody : bodyOf .bwOpen s = .ok { state := { s with writer := openedWriter (a0 s) (a1 s) } } :=
      except_bind_eq_ok.2 ⟨(), raisedIn_eq_ok.2 (checkRange_eq_ok.2 hrange), rfl⟩
    rw [exec_eq_finished rfl rfl hbody rfl]
    simp [openedWriter, Writer.closed, a0, a1]
  · have hbody : bodyOf .brOpen s = .ok { state := { s with reader := openedReader (a0 s) (a1 s) } } :=
      except_bind_eq_ok.2 ⟨(), raisedIn_eq_ok.2 (checkRange_eq_ok.2 hrange), rfl⟩
    rw [exec_eq_finished rfl rfl hbody rfl]
    simp [openedReader, Reader.closed, a0, a1]
  · exact exec_eq_finished (d := { state := closeReader s }) rfl rfl rfl rfl

/-! ### BR_READBIT -/

theorem brReadbit_of_bit {s : State} {b : Bool} {r : Reader}
    (h : readBit (viewOf .brReadbit s 0) s.reader = .ok (some b, r)) :
    bodyOf .brReadbit s = .ok { state := { s with reader := r }, r0 := b.toNat, r1 := 0 } :=
  except_bind_eq_ok.2 ⟨_, raisedIn_eq_ok.2 h, rfl⟩

theorem brReadbit_of_end {s : State} {r : Reader}
    (h : readBit (viewOf .brReadbit s 0) s.reader = .ok (none, r)) :
    bodyOf .brReadbit s = .ok { state := { s with reader := r }, r0 := 0, r1 := 1 } :=
  except_bind_eq_ok.2 ⟨_, raisedIn_eq_ok.2 h, rfl⟩

theorem brReadbit_of_error {s : State} {e : CmdError}
    (h : readBit (viewOf .brReadbit s 0) s.reader = .error e) :
    bodyOf .brReadbit s = .error { error := e, state := s } :=
  except_bind_eq_error.2 (.inl (raisedIn_eq_error.2 ⟨e, h, rfl⟩))

/-- Settles O40: by where the reader is: within its byte, at a byte to read, or at its end. -/
theorem brReadbitReturnsTheNextBit : Obligations.BrReadbitReturnsTheNextBit := by
  intro s ho hs
  obtain ⟨-, -, hspace⟩ := hs.2 ho
  refine ⟨fun b rest hbits hrefill => ?_, fun hbits => ?_, fun _ hnb hpos hbad => ?_⟩
  · obtain ⟨r, hr, hrest⟩ := readBit_next (v := viewOf .brReadbit s 0) hbits fun hnb _ =>
      memRead_viewOf rfl (hrefill hnb).1 (hrefill hnb).2
    have hran : ReaderRan s.reader r := readBit_ran _ hr
    refine ⟨_, exec_eq_finished (i := .brReadbit) ho rfl (brReadbit_of_bit hr) rfl, ?_, hrest,
      hran.ropen.trans ho, hran.rsrc, hran.rlen⟩
    cases b <;> rfl
  · obtain ⟨hnb, hend⟩ := readerBits_eq_nil hbits
    exact exec_eq_finished (i := .brReadbit) ho rfl (brReadbit_of_end (readBit_at_end hnb hend)) rfl
  · have hread : memRead (viewOf .brReadbit s 0) (s.reader.rsrc.toNat + s.reader.rpos.toNat) =
        .error { code := .ioRead, info := s.reader.rsrc.toNat + s.reader.rpos.toNat } :=
      if_neg (Bool.eq_false_iff.1 hbad)
    have hbit := (readBit_of_refill hnb hpos).trans (except_bind_eq_error.2 (.inl hread))
    exact exec_eq_failedWith_effects (i := .brReadbit) ho rfl (by omega) (brReadbit_of_error hbit)

/-! ### Decoding a symbol -/

theorem le_maxLength (l : Vector Byte 256) (k : Fin 256) : l[k].toNat ≤ maxLength l := by
  have hfold : ∀ (bs : List Byte) (m : Nat), m ≤ bs.foldl (fun m b => max m b.toNat) m ∧
      ∀ b ∈ bs, b.toNat ≤ bs.foldl (fun m b => max m b.toNat) m := by
    intro bs
    induction bs with
    | nil => exact fun m => ⟨le_rfl, nofun⟩
    | cons c bs ih =>
      intro m
      obtain ⟨hm, hbs⟩ := ih (max m c.toNat)
      refine ⟨(Nat.le_max_left _ _).trans hm, fun b hb => ?_⟩
      obtain rfl | hb := List.mem_cons.1 hb
      · exact (Nat.le_max_right _ _).trans hm
      · exact hbs b hb
  exact (hfold l.toList 0).2 _ (by simp)

/-- From the first `n` bits of a number of `L` bits to its first `n + 1`. -/
theorem div_two_pow_shift (v d : Nat) : 2 * (v / 2 ^ (d + 1)) + (v.testBit d).toNat = v / 2 ^ d := by
  rw [Nat.pow_succ, ← Nat.div_div_eq_div_mul, Nat.toNat_testBit]
  exact Nat.div_add_mod _ 2

/-- The reader gives the byte in memory for each refill up to the end of its source. -/
def RefillsFrom (v : View) (r : Reader) (m : Memory) : Prop :=
  ∀ a, r.rsrc.toNat + r.rpos.toNat ≤ a → a < r.rsrc.toNat + r.rlen.toNat → memRead v a = .ok (readByte m a)

theorem RefillsFrom.ran {v : View} {r r' : Reader} {m : Memory} (h : RefillsFrom v r m) (hran : ReaderRan r r') :
    RefillsFrom v r' m := by
  have := hran.rises
  intro a hlo hhi
  rw [hran.rsrc] at hlo hhi
  rw [hran.rlen] at hhi
  exact h a (by omega) hhi

section
variable {v : View} {r : Reader} {m : Memory} {l : Vector Byte 256}

/-- A round of the decoder whose lookup hits. -/
theorem decodeBits_hit {c : Canon} {produced fuel n value : Nat} {b : Bool} {r' : Reader} {k : Byte}
    (hbit : readBit v r = .ok (some b, r')) (hlookup : lookupRow c (n + 1) (2 * value + b.toNat) = some k) :
    decodeBits v c produced (fuel + 1) n value r = .ok (k, n + 1, r') := by
  rw [decodeBits, hbit]
  dsimp only [bind, Except.bind]
  rw [hlookup]

/-- A round of the decoder whose lookup misses, below the greatest length. -/
theorem decodeBits_miss {c : Canon} {produced fuel n value : Nat} {b : Bool} {r' : Reader}
    (hbit : readBit v r = .ok (some b, r')) (hlookup : lookupRow c (n + 1) (2 * value + b.toNat) = none)
    (hlong : n + 1 < c.maxLen.toNat) : decodeBits v c produced (fuel + 1) n value r =
      decodeBits v c produced fuel (n + 1) (2 * value + b.toNat) r' := by
  rw [decodeBits, hbit]
  dsimp only [bind, Except.bind]
  rw [hlookup]
  exact if_neg (Nat.not_le.2 hlong)

/-- With all but `d` bits of the code of `k` read, the decoder goes on to the end of the code: the lookup
misses on every proper beginning of it (42_canonical.md R205). -/
theorem Assignable.decodeBits_code (hl : Assignable l) {k : Fin 256} (hk : l[k] ≠ 0) (produced : Nat)
    {rest : List Bool} {d fuel : Nat} (hd : d < l[k].toNat) (hfuel : d < fuel)
    (hbits : readerBits r m = lowBits (symbolCode l k) (d + 1) ++ rest) (hread : RefillsFrom v r m) :
    ∃ r', decodeBits v (canonTables l) produced fuel (l[k].toNat - (d + 1))
        (symbolCode l k / 2 ^ (d + 1)) r = .ok (BitVec.ofNat 8 k.val, l[k].toNat, r') ∧
      ReaderRan r r' ∧ readerBits r' m = rest := by
  induction d generalizing r fuel with
  | zero =>
    obtain ⟨fuel, rfl⟩ := Nat.exists_eq_add_of_lt hfuel
    rw [lowBits_succ, List.cons_append] at hbits
    obtain ⟨r', hbit, hrest⟩ := readBit_next hbits fun _ hpos => hread _ le_rfl (by omega)
    have hcount : l[k].toNat - (0 + 1) + 1 = l[k].toNat := Nat.sub_add_cancel hd
    have hhit := hl.lookupRow_symbolCode hk
    rw [← Nat.div_one (symbolCode l k), ← Nat.pow_zero 2, ← div_two_pow_shift, ← hcount] at hhit
    exact ⟨r', hcount ▸ decodeBits_hit hbit hhit, readBit_ran _ hbit, hrest⟩
  | succ d ih =>
    obtain ⟨fuel, rfl⟩ := Nat.exists_eq_add_of_lt hfuel
    rw [lowBits_succ, List.cons_append] at hbits
    obtain ⟨r', hbit, hrest⟩ := readBit_next hbits fun _ hpos => hread _ le_rfl (by omega)
    have hran : ReaderRan r r' := readBit_ran _ hbit
    obtain ⟨r'', hcode, hran', hrest'⟩ :=
      ih (r := r') (fuel := d + 1 + fuel) (by omega) (by omega) hrest (hread.ran hran)
    refine ⟨r'', ?_, hran.trans hran', hrest'⟩
    have hcount : l[k].toNat - (d + 1 + 1) + 1 = l[k].toNat - (d + 1) := by omega
    have hmiss := hl.lookupRow_prefix (k := k) (n := l[k].toNat - (d + 1)) (by omega)
    rw [Nat.sub_sub_self hd.le, ← div_two_pow_shift, ← hcount] at hmiss
    have hlong : l[k].toNat - (d + 1 + 1) + 1 < (canonTables l).maxLen.toNat := by
      have := le_maxLength l k
      rw [hl.maxLen_eq]
      omega
    rw [decodeBits_miss hbit hmiss hlong, hcount, div_two_pow_shift, hcode]

theorem Assignable.nsym_ne_zero (hl : Assignable l) {k : Fin 256} (hk : l[k] ≠ 0) : (canonTables l).nsym ≠ 0 := by
  intro hzero
  have hlen := hl.nsym_eq
  rw [hzero, length_sortedEntries hl.le_64] at hlen
  have hmem : k ∈ presentSymbols l := by simpa [presentSymbols] using hk
  rw [List.length_eq_zero_iff.1 hlen.symm] at hmem
  exact nomatch hmem

/-- The symbol whose code comes next is decoded. -/
theorem Assignable.decodeSymbol_code (hl : Assignable l) {k : Fin 256} (hk : l[k] ≠ 0) (produced : Nat)
    {rest : List Bool} (hbits : readerBits r m = lowBits (symbolCode l k) l[k].toNat ++ rest)
    (hread : RefillsFrom v r m) :
    ∃ r', decodeSymbol v (canonTables l) r produced = .ok (BitVec.ofNat 8 k.val, l[k].toNat, r') ∧
      ReaderRan r r' ∧ readerBits r' m = rest := by
  obtain ⟨d, hd⟩ := Nat.exists_eq_add_of_le' (toNat_pos_iff.2 hk)
  have hle := hl.le_64 k
  rw [hd] at hbits
  obtain ⟨r', hcode, hr'⟩ := hl.decodeBits_code hk produced (fuel := 256) (by omega) (by omega) hbits hread
  have hlt : symbolCode l k < 2 ^ (d + 1) := hd ▸ hl.symbolCode_lt hk
  rw [hd, Nat.sub_self, Nat.div_eq_of_lt hlt, ← hd] at hcode
  exact ⟨r', except_bind_eq_ok.2
    ⟨(), failIf_eq_ok.2 (decide_eq_false (hl.nsym_ne_zero hk)), hcode⟩, hr'⟩

theorem decodeSymbol_no_symbol {c : Canon} (hzero : c.nsym = 0) (produced : Nat) :
    decodeSymbol v c r produced = .error { code := .badLengths, info := 0 } :=
  except_bind_eq_error.2 (.inl (failIf_eq_error.2 ⟨decide_eq_true hzero, rfl⟩))

theorem decodeSymbol_at_end {c : Canon} (hsome : c.nsym ≠ 0) (hend : readBit v r = .ok (none, r))
    (produced : Nat) : decodeSymbol v c r produced = .error { code := .underflow, info := produced } := by
  refine except_bind_eq_error.2 (.inr ⟨(), failIf_eq_ok.2 (decide_eq_false hsome), ?_⟩)
  rw [decodeBits, hend]
  rfl

end

/-! ### BR_SYM -/

/-- BR_SYM fails with the error of its decoder. -/
theorem exec_brSym_error {s : State} {c : ErrCode} {info : Nat} (hc : contextPresent .brSym s = true)
    (hinfo : info < addressLimit)
    (h : decodeSymbol (viewOf .brSym s 0) s.canon s.reader 0 = .error { code := c, info := info }) :
    exec .brSym s = .next (failedWith { s with reader := Reader.closed } c.byte info) :=
  exec_eq_failedWith_effects hc rfl hinfo
    (except_bind_eq_error.2 (.inl (raisedIn_eq_error.2 ⟨_, h, rfl⟩)))

/-- Settles O41: the tables are those of LEN, so the decoder finds the code the reader's bits begin with. -/
theorem brSymDecodesTheCode : Obligations.BrSymDecodesTheCode := by
  intro s ho hcanon
  have hc : contextPresent .brSym s = true := Bool.and_eq_true_iff.2 ⟨ho, hcanon⟩
  refine ⟨fun x rest hcurrent hs hrace hpresent hbits hread => ?_, fun hzero => ?_, fun hsome _ hbits => ?_⟩
  · obtain ⟨hl, htables⟩ := assignCodes_eq_ok_iff.1 (hcurrent hcanon)
    have hk : s.len[(⟨x.toNat, x.isLt⟩ : Fin 256)] ≠ 0 := fun h => hpresent (by
      rw [Vector.getElem?_eq_getElem x.isLt]
      exact congrArg some h)
    have hrefills : RefillsFrom (viewOf .brSym s 0) s.reader s.mem := fun a hlo hhi => by
      refine memRead_viewOf rfl hrace fun j hj => ?_
      have hadmits := hread (a - (s.reader.rsrc.toNat + s.reader.rpos.toNat)) (by omega)
      rwa [Nat.add_sub_cancel' hlo, show a = a + j by omega] at hadmits
    obtain ⟨r, hr, hran, hrest⟩ := hl.decodeSymbol_code hk 0 hbits hrefills
    rw [← htables, BitVec.ofNat_toNat, BitVec.setWidth_eq] at hr
    have hbody : bodyOf .brSym s = .ok
        { state := { s with reader := r }, r0 := x.toNat, r1 := (s.len[x.toNat]'x.isLt).toNat } :=
      except_bind_eq_ok.2 ⟨_, raisedIn_eq_ok.2 hr, rfl⟩
    refine ⟨_, exec_eq_finished hc rfl hbody rfl, ?_, hrest, hran.ropen.trans ho, hran.rsrc, hran.rlen⟩
    rw [codeBits, length_lowBits]
    rfl
  · exact exec_brSym_error hc (by decide) (decodeSymbol_no_symbol hzero 0)
  · obtain ⟨hnb, hend⟩ := readerBits_eq_nil hbits
    exact exec_brSym_error hc (by decide) (decodeSymbol_at_end hsome (readBit_at_end hnb hend) 0)

end Sys2Proof.Machine

namespace Sys2Proof.Machine

/-! PROOFS. The invariants of the units and contexts (spec/43_bitstream.md R220, R230; 45_archive.md R280 to R284):
every step keeps them, and the block's parameters (00_scope.md R6). -/

/-! ### The units and contexts of a state -/

/-- The writer, the reader, the creation context and the reading context. -/
def units (s : State) := (s.writer, s.reader, s.create, s.reading)

theorem units_eq_iff {s t : State} : units t = units s ↔
    t.writer = s.writer ∧ t.reader = s.reader ∧ t.create = s.create ∧ t.reading = s.reading := by
  simp only [units, Prod.mk.injEq]

/-- Soundness speaks of the units, and of no parameter that the platform may change. -/
theorem UnitsSound.of_units_eq {s t : State} (hs : UnitsSound s) (hu : units t = units s)
    (hp : SameInstance s.params t.params) : UnitsSound t := by
  obtain ⟨hwriter, hreader, hcreate, hreading⟩ := units_eq_iff.1 hu
  obtain ⟨hpath, hmembers, hchunk, -⟩ := hp
  simpa only [UnitsSound, WriterSound, CreateSound, ReadingSound, Config.Params.entryLen, hwriter, hreader, hcreate,
    hreading, ← hpath, ← hmembers, ← hchunk] using hs

theorem writerSound_closed (p : Config.Params) : WriterSound p Writer.closed := ⟨fun _ => rfl, nofun⟩

theorem readerSound_closed : ReaderSound Reader.closed := ⟨fun _ => rfl, nofun⟩

theorem createSound_zero (p : Config.Params) : CreateSound p Create.zero :=
  ⟨fun _ => rfl, nofun, by decide⟩

theorem readingSound_closed (p : Config.Params) : ReadingSound p Reading.closed := ⟨fun _ => rfl, nofun⟩

theorem unitsSound_of_units_eq_reset {t : State} (hu : units t = units State.reset) : UnitsSound t := by
  obtain ⟨hwriter, hreader, hcreate, hreading⟩ := units_eq_iff.1 hu
  rw [UnitsSound, hwriter, hreader, hcreate, hreading]
  exact ⟨writerSound_closed _, readerSound_closed, createSound_zero _, readingSound_closed _⟩

/-! ### What an input does to the units and the parameters -/

theorem writeReg_units (s : State) (r : Reg) (v : Word) :
    units (writeReg s r v) = units s ∨ units (writeReg s r v) = units State.reset := by
  cases r with
  | ctrl =>
    simp only [writeReg, writeCtrl]
    split
    · exact .inr rfl
    · exact .inl rfl
  | status => rw [writeReg, writeStatus_eq]; exact .inl rfl
  | cmd | freq n | len n => simp only [writeReg]; split <;> exact .inl rfl
  | _ => exact .inl rfl

theorem writeReg_params (s : State) (r : Reg) (v : Word) : (writeReg s r v).params = s.params := by
  cases r with
  | ctrl => simp only [writeReg, writeCtrl]; split <;> rfl
  | status => rw [writeReg, writeStatus_eq]
  | cmd | freq n | len n => simp only [writeReg]; split <;> rfl
  | _ => rfl

theorem mmioWrite_params (s : State) (bytes addr : Nat) (v : Word) :
    (mmioWrite s bytes addr v).params = s.params := by
  unfold mmioWrite
  split
  · rfl
  split
  · rfl
  split
  · rfl
  next r _ => exact writeReg_params s r v

/-- A register write and the reset input keep the units or reset them all; no other input touches them. -/
theorem hostAct_units {s t : State} {op : HostOp} (h : hostAct s op = .next t) :
    units t = units s ∨ units t = units State.reset := by
  obtain ⟨r, v, rfl⟩ | rfl | hk := hostAct_cases h
  · exact writeReg_units s r v
  · exact .inr rfl
  · rw [hk]
    exact .inl rfl

/-- An input changes at most the platform's predicates. -/
theorem hostAct_sameInstance {s t : State} {op : HostOp} (h : hostAct s op = .next t) :
    SameInstance s.params t.params := by
  have hsame : t.params = s.params → SameInstance s.params t.params := fun hp => hp ▸ ⟨rfl, rfl, rfl, rfl⟩
  cases op with
  | mmioRead bytes addr =>
    obtain rfl := Host.Outcome.next.inj h
    exact hsame (by rw [mmioRead_frame])
  | mmioWrite bytes addr v =>
    obtain rfl := Host.Outcome.next.inj h
    exact hsame (mmioWrite_params s bytes addr v)
  | memRead a =>
    simp only [hostAct] at h
    split at h
    · obtain rfl := Host.Outcome.next.inj h
      exact hsame (by rw [hostMemRead_eq])
    · contradiction
  | memWrite a b =>
    simp only [hostAct] at h
    split at h
    · obtain rfl := Host.Outcome.next.inj h
      obtain ⟨m, raced, draws, hw⟩ := hostMemWrite_keeps s a b
      exact hsame (by rw [hw])
    · contradiction
  | wait | setAdmit | assertReset | releaseReset =>
    obtain rfl := Host.Outcome.next.inj h
    exact ⟨rfl, rfl, rfl, rfl⟩

/-! ### What a command does to the units -/

theorem exec_params {i : Instr} {s t : State} (h : exec i s = .next t) : t.params = s.params :=
  exec_keeps (·.params) (fun _ _ hc => by
    have hside := hc.hostSide_eq
    simp only [hostSide, Prod.mk.injEq] at hside
    exact hside.2.2.2.2.1) h

/-- Without its context a command keeps the units; with it they are as its body leaves them, and closed as a
failure closes them. -/
theorem exec_units {i : Instr} {s t : State} (h : exec i s = .next t) : units t = units s ∨
    (contextPresent i s = true ∧ ((∃ d, bodyOf i s = .ok d ∧ units t = units d.state) ∨
      ∃ r, bodyOf i s = .error r ∧ units t = units (failureEffects i r.state))) := by
  rw [exec_eq_runCommand] at h
  obtain ⟨-, rfl⟩ | ⟨hc, d, hd, rfl⟩ | ⟨hc, r, hr, rfl⟩ := runCommand_cases h
  · exact .inl rfl
  · exact .inr ⟨hc, .inl ⟨d, hd, rfl⟩⟩
  · exact .inr ⟨hc, .inr ⟨r, hr, rfl⟩⟩

/-- What a body leaves sound, and the closings of a failure keep sound, is sound after the command. -/
theorem exec_units_of_leaves {i : Instr} {s t : State} (P : Writer × Reader × Create × Reading → Prop)
    (hs : P (units s)) (hbody : contextPresent i s = true → Leaves (fun u => P (units u)) Done.state (bodyOf i s))
    (hfail : ∀ u, P (units u) → P (units (failureEffects i u))) (h : exec i s = .next t) : P (units t) := by
  obtain hu | ⟨hc, ⟨d, hd, hu⟩ | ⟨r, hr, hu⟩⟩ := exec_units h <;> rw [hu]
  · exact hs
  · have hleaves := hbody hc
    rw [hd] at hleaves
    obtain ⟨hd⟩ := hleaves
    exact hd
  · have hleaves := hbody hc
    rw [hr] at hleaves
    obtain _ | ⟨hr⟩ := hleaves
    exact hfail _ hr

/-! ### The bit writer -/

/-- A writer that was open and sound is so after bits are added. -/
theorem BitsAdded.writerSound {p : Config.Params} {w : Writer} {m : Memory} {bs : List Bool} {x : Writer × Memory}
    (h : BitsAdded p w m bs x) (hw : WriterSound p w) (ho : w.wopen = true) : WriterSound p x.1 := by
  obtain ⟨-, -, -, -, hspace⟩ := hw.2 ho
  obtain ⟨hfits, hchunk, hacc⟩ := h.ready
  refine ⟨fun hclosed => ?_, fun _ => ⟨hfits.count, hfits.room, hchunk, hacc, ?_⟩⟩
  · rw [h.wopen, ho] at hclosed
    exact nomatch hclosed
  · rwa [h.ran.wdst, h.ran.wcap]

theorem writerSound_openedWriter {p : Config.Params} (hp : p.Legal) {dst cap : Nat}
    (hspace : dst + cap ≤ addressLimit) : WriterSound p (openedWriter dst cap) := by
  obtain ⟨-, -, hchunk, -⟩ := hp
  refine ⟨nofun, fun _ => ⟨rfl, Nat.zero_le _, hchunk, Nat.one_pos, ?_⟩⟩
  exact (Nat.add_le_add (Nat.mod_le dst _) (Nat.mod_le cap _)).trans hspace

/-- FRAME_ENCODE's own use of the bit writer leaves it closed. -/
theorem frameEncodeBody_writer {v : View} {s : State} {src len dst cap : Nat} :
    Yields (fun f => f.state.writer = Writer.closed) (frameEncodeBody v s src len dst cap) :=
  yields_bind fun _ _ => yields_bind fun s1 _ => Yields.raisedIn fun f hf => by
    obtain ⟨m, hm⟩ := encodeFrame_state hf
    rw [hm]
    rfl

/-- The commands that may change the bit writer. -/
abbrev writerCommands : List Instr := [.bwOpen, .bwWrite, .bwSym, .bwFlush, .frameEncode, .archAdd]

theorem bodyOf_writerSound {i : Instr} {s : State} (hi : i ∈ writerCommands) (hp : s.params.Legal)
    (hs : WriterSound s.params s.writer) (hc : contextPresent i s = true) :
    Yields (fun d => WriterSound s.params d.state.writer) (bodyOf i s) := by
  have hclosed := writerSound_closed s.params
  cases i with
  | bwOpen =>
    exact yields_bind fun _ hrange => yields_ok
      (writerSound_openedWriter hp (checkRange_eq_ok.1 (raisedIn_eq_ok.1 hrange)))
  | bwWrite =>
    exact yields_bind fun _ _ => (writeBits_adds (hs.ready hc) _ _).raisedIn.bind fun _ h =>
      yields_ok (h.writerSound hs hc)
  | bwSym =>
    have ho : s.writer.wopen = true := (Bool.and_eq_true_iff.1 hc).1
    exact yields_bind fun _ _ => yields_bind fun _ _ =>
      (writeBits_adds (hs.ready ho) _ _).raisedIn.bind fun _ h => yields_ok (h.writerSound hs ho)
  | bwFlush => exact yields_bind fun _ _ => yields_ok hclosed
  | frameEncode => exact frameEncodeBody_writer.bind fun f hf => yields_ok (hf ▸ hclosed)
  | archAdd =>
    exact yields_bind fun _ _ => frameEncodeBody_writer.bind fun f hf => yields_ok (hf ▸ hclosed)
  | _ => exact absurd hi (by decide)

theorem failureEffects_writer {i : Instr} (hi : i ∈ writerCommands) (u : State) :
    (failureEffects i u).writer = Writer.closed := by
  cases i with
  | bwOpen | bwWrite | bwSym | bwFlush | frameEncode | archAdd => rfl
  | _ => exact absurd hi (by decide)

theorem exec_writerSound {i : Instr} {s t : State} (hp : s.params.Legal) (hs : WriterSound s.params s.writer)
    (h : exec i s = .next t) : WriterSound s.params t.writer := by
  by_cases hi : i ∈ writerCommands
  · obtain hu | ⟨hc, ⟨d, hd, hu⟩ | ⟨r, -, hu⟩⟩ := exec_units h <;> rw [(units_eq_iff.1 hu).1]
    · exact hs
    · exact bodyOf_writerSound hi hp hs hc d hd
    · rw [failureEffects_writer hi]
      exact writerSound_closed _
  · rwa [exec_keeps (·.writer) (fun _ _ hc => hc.writer_eq hi) h]

/-! ### The bit reader -/

/-- A reader that was open and sound is so after it has read. -/
theorem ReaderRan.readerSound {r r' : Reader} (h : ReaderRan r r') (hr : ReaderSound r) (ho : r.ropen = true) :
    ReaderSound r' := by
  obtain ⟨hpos, hnb, hspace⟩ := hr.2 ho
  refine ⟨fun hclosed => ?_, fun _ => ⟨?_, h.rnb_le hnb, ?_⟩⟩
  · rw [h.ropen, ho] at hclosed
    exact nomatch hclosed
  · rw [h.rlen]
    exact h.rpos_le hpos
  · rwa [h.rsrc, h.rlen]

theorem readerSound_openedReader {src len : Nat} (hspace : src + len ≤ addressLimit) :
    ReaderSound (openedReader src len) :=
  ⟨nofun, fun _ => ⟨Nat.zero_le _, Nat.zero_le _,
    (Nat.add_le_add (Nat.mod_le src _) (Nat.mod_le len _)).trans hspace⟩⟩

/-- The decoder reads bits only. -/
theorem decodeBits_ran {v : View} {c : Canon} {produced fuel n value : Nat} {r : Reader} :
    Yields (fun x => ReaderRan r x.2.2) (decodeBits v c produced fuel n value r) := by
  induction fuel generalizing n value r with
  | zero => exact nofun
  | succ fuel ih =>
    refine readBit_ran.bind fun x hx => ?_
    obtain ⟨_ | b, r'⟩ := x
    · exact nofun
    · dsimp only
      split
      · exact yields_ok hx
      · split
        · exact nofun
        · exact ih.imp fun _ => hx.trans

theorem frameDecodeBody_reader {v : View} {s : State} {src len dst cap : Nat} {expected : Option (Nat × Nat)} :
    Yields (fun f => f.state.reader = Reader.closed) (frameDecodeBody v s src len dst cap expected) :=
  yields_bind fun _ _ => yields_bind fun _ _ => yields_bind fun _ _ => Yields.raisedIn fun f hf => by
    obtain ⟨m, hm⟩ := decodeFrame_state hf
    rw [hm]
    rfl

/-- The commands that may change the bit reader. -/
abbrev readerCommands : List Instr := [.brOpen, .brReadbit, .brSym, .brClose, .frameDecode, .archExtract]

theorem brReadbit_ran (s : State) : Yields (fun d => ReaderRan s.reader d.state.reader) (brReadbit s) := by
  refine readBit_ran.raisedIn.bind fun x hx => ?_
  obtain ⟨_ | b, r⟩ := x <;> exact yields_ok hx

theorem bodyOf_readerSound {i : Instr} {s : State} (hi : i ∈ readerCommands) (hs : ReaderSound s.reader)
    (hc : contextPresent i s = true) : Yields (fun d => ReaderSound d.state.reader) (bodyOf i s) := by
  have hclosed := readerSound_closed
  cases i with
  | brOpen =>
    exact yields_bind fun _ hrange => yields_ok
      (readerSound_openedReader (checkRange_eq_ok.1 (raisedIn_eq_ok.1 hrange)))
  | brReadbit => exact (brReadbit_ran s).imp fun _ h => h.readerSound hs hc
  | brSym =>
    have ho : s.reader.ropen = true := (Bool.and_eq_true_iff.1 hc).1
    have hdecode : Yields (fun x => ReaderRan s.reader x.2.2)
        (decodeSymbol (viewOf .brSym s 0) s.canon s.reader 0) := yields_bind fun _ _ => decodeBits_ran
    exact hdecode.raisedIn.bind fun _ h => yields_ok (h.readerSound hs ho)
  | brClose => exact yields_ok hclosed
  | frameDecode => exact frameDecodeBody_reader.bind fun f hf => yields_ok (hf ▸ hclosed)
  | archExtract =>
    exact yields_bind fun _ _ => frameDecodeBody_reader.bind fun f hf => yields_ok (hf ▸ hclosed)
  | _ => exact absurd hi (by decide)

theorem failureEffects_reader {i : Instr} (hi : i ∈ readerCommands) (u : State) :
    (failureEffects i u).reader = Reader.closed := by
  cases i with
  | brOpen | brReadbit | brSym | brClose | frameDecode | archExtract => rfl
  | _ => exact absurd hi (by decide)

theorem exec_readerSound {i : Instr} {s t : State} (hs : ReaderSound s.reader) (h : exec i s = .next t) :
    ReaderSound t.reader := by
  by_cases hi : i ∈ readerCommands
  · obtain hu | ⟨hc, ⟨d, hd, hu⟩ | ⟨r, -, hu⟩⟩ := exec_units h <;> rw [(units_eq_iff.1 hu).2.1]
    · exact hs
    · exact bodyOf_readerSound hi hs hc d hd
    · rw [failureEffects_reader hi]
      exact readerSound_closed
  · rwa [exec_keeps (·.reader) (fun _ _ hc => hc.reader_eq hi) h]

/-! ### The creation context -/

theorem memReadN_length {v : View} {a n : Nat} : Yields (fun bs => bs.length = n) (memReadN v a n) := by
  induction n generalizing a with
  | zero => exact yields_ok rfl
  | succ n ih =>
    exact yields_bind fun _ _ => ih.bind fun _ h => yields_ok (congrArg Nat.succ h)

/-- The record after the last one written is added at the end. -/
theorem setEntry_length (p : Config.Params) (ram : List Entry) (e : Entry) :
    setEntry p ram ram.length e = ram ++ [e] := by
  induction ram with
  | nil => rfl
  | cons x ram ih => exact congrArg (x :: ·) ih

theorem length_pathField {p : Config.Params} {q : List Byte} (h : q.length ≤ p.pathLen) :
    (pathField p q).length = p.pathLen := by
  simp [pathField, h]

/-- Closing keeps AFAIL and PARTIAL, so it keeps what they say of each other (45_archive.md R280). -/
theorem CreateSound.closed {p : Config.Params} {c : Create} (h : CreateSound p c) :
    CreateSound p { Create.zero with afail := c.afail, partialAdd := c.partialAdd } :=
  ⟨fun _ => rfl, nofun, h.2.2⟩

theorem bumpFail_ne_zero (n : BitVec 32) : bumpFail n ≠ 0 := by
  unfold bumpFail
  split
  next h => exact h ▸ by decide
  next h =>
    intro hzero
    exact h (by rw [eq_neg_of_add_eq_zero_left hzero, ← BitVec.neg_one_eq_allOnes]; rfl)

/-- A failed ARCH_ADD counts itself, and changes nothing else of the context (45_archive.md R282). -/
theorem CreateSound.failedAdd {p : Config.Params} {c : Create} (h : CreateSound p c) :
    CreateSound p { c with partialAdd := true, afail := bumpFail c.afail } := by
  obtain ⟨hclosed, hopen, -⟩ := h
  refine ⟨fun hc => ?_, hopen, iff_of_true rfl (bumpFail_ne_zero _)⟩
  rw [hclosed hc]

/-- A member within the slots, with a path and a frame that fit, keeps the context sound (45_archive.md R282). -/
theorem createSound_addMember {p : Config.Params} {c : Create} (h : CreateSound p c) (ho : c.archW = true)
    (hslot : c.an ≠ c.aslots) {q : List Byte} (hq : q.length ≤ p.pathLen) (orig : Nat) {length : Nat}
    (hlength : length ≤ c.acap.toNat - c.aend.toNat) : CreateSound p (addMember p c q orig length) := by
  obtain ⟨-, hopen, hpartial⟩ := h
  obtain ⟨han, hslots, hram, hpaths, htable, haend, hspace⟩ := hopen ho
  have hlt : c.an.toNat < c.aslots.toNat := Nat.lt_of_le_of_ne han fun heq => hslot (BitVec.eq_of_toNat_eq heq)
  have han' : (c.an + 1).toNat = c.an.toNat + 1 := by
    have := c.aslots.isLt
    exact toNat_add_one (by omega)
  have haend' : (c.aend + BitVec.ofNat 64 length).toNat = c.aend.toNat + length := by
    have := c.acap.isLt
    rw [BitVec.toNat_add, BitVec.toNat_ofNat, Nat.add_mod_mod, Nat.mod_eq_of_lt (by omega)]
  have hram' : (addMember p c q orig length).ram = c.ram ++ [⟨pathField p q,
      BitVec.ofNat 64 orig, BitVec.ofNat 64 length, c.aend⟩] := by
    rw [addMember, ← hram, setEntry_length]
  refine ⟨fun hclosed => absurd ho (by simp [show c.archW = false from hclosed]),
    fun _ => ⟨han'.trans_le hlt, hslots, ?_, ?_, ?_, ?_, hspace⟩, hpartial⟩
  · rw [hram', List.length_append, hram]
    exact han'.symm
  · intro e he
    rw [hram', List.mem_append, List.mem_singleton] at he
    obtain he | rfl := he
    · exact hpaths e he
    · exact length_pathField hq
  · exact htable.trans (haend'.symm ▸ Nat.le_add_right _ _)
  · exact haend'.trans_le (show c.aend.toNat + length ≤ c.acap.toNat by omega)

theorem addPath_fits (s : State) :
    Yields (fun q => q.length ≤ s.params.pathLen ∧ s.create.an ≠ s.create.aslots) (addPath s) :=
  yields_bind fun _ _ => yields_bind fun _ _ => yields_bind fun _ hplen =>
    memReadN_length.bind fun q hq => yields_bind fun _ _ => yields_bind fun _ hslot => yields_ok <| by
      have hplen := of_decide_eq_false (failIf_eq_ok.1 hplen)
      exact ⟨by omega, of_decide_eq_false (failIf_eq_ok.1 hslot)⟩

theorem beginWrites_slots (s : State) : Yields (fun _ => a2 s ≤ s.params.maxMembers) (beginWrites s) :=
  yields_bind fun _ _ => yields_bind fun _ hslots => fun _ _ =>
    Nat.not_lt.1 (of_decide_eq_false (failIf_eq_ok.1 hslots))

/-- The context ARCH_BEGIN opens (45_archive.md R281). -/
def begunCreate (s : State) : Create :=
  { Create.zero with
    archW := true, abase := BitVec.ofNat 64 (a0 s), acap := BitVec.ofNat 64 (a1 s)
    aslots := BitVec.ofNat 16 (a2 s), an := 0
    aend := BitVec.ofNat 64 (Config.archHdr + a2 s * s.params.entryLen) }

theorem createSound_begunCreate {s : State} {m : Memory} (hp : s.params.Legal) (h : beginWrites s = .ok m) :
    CreateSound s.params (begunCreate s) := by
  obtain ⟨-, ⟨-, hmembers⟩, -⟩ := hp
  obtain ⟨hspace, hcap, -⟩ := beginWrites_stores s m h
  have hslots := beginWrites_slots s m h
  have ha1 : a1 s < 2 ^ 64 := s.latch.a[1].isLt
  have haslots : (begunCreate s).aslots.toNat = a2 s := toNat_ofNat_of_lt (by omega)
  have habase : (begunCreate s).abase.toNat = a0 s := toNat_ofNat_of_lt s.latch.a[0].isLt
  have hacap : (begunCreate s).acap.toNat = a1 s := toNat_ofNat_of_lt ha1
  have haend : (begunCreate s).aend.toNat = Config.archHdr + a2 s * s.params.entryLen :=
    toNat_ofNat_of_lt (by omega)
  refine ⟨nofun, fun _ => ⟨Nat.zero_le _, ?_, rfl, nofun, ?_, ?_, ?_⟩, (createSound_zero s.params).2.2⟩
  · rwa [haslots]
  · rw [haslots, haend]
  · rwa [haend, hacap]
  · rwa [habase, hacap]

theorem Leaves.imp {α : Type} {P Q : State → Prop} {st : α → State} {x : Except Raised α} (hx : Leaves P st x)
    (h : ∀ u, P u → Q u) : Leaves Q st x := by
  cases hx with
  | ok hp => exact .ok (h _ hp)
  | error hp => exact .error (h _ hp)

/-- The rest of a body after a step known by what it leaves unchanged. -/
theorem Leaves.bind_of_imp {α β : Type} {P Q : State → Prop} {st : α → State} {st' : β → State}
    {x : Except Raised β} {f : β → Except Raised α} (hx : Leaves Q st' x) (hQ : ∀ u, Q u → P u)
    (hf : ∀ b, x = .ok b → Q (st' b) → Leaves P st (f b)) : Leaves P st (x >>= f) := by
  cases hx with
  | error h => exact .error (hQ _ h)
  | ok h => exact hf _ rfl h

/-- FRAME_ENCODE's body commits nothing to the creation context. -/
theorem frameEncodeBody_create (v : View) (s : State) (src len dst cap : Nat) :
    Leaves (fun u => u.create = s.create) Encoded.state (frameEncodeBody v s src len dst cap) := by
  have hcommits := frameEncodeBody_commits s (i := .frameEncode) (by decide) v src len dst cap
  exact hcommits.imp fun u hu => hu.keeps (f := (·.create)) fun _ _ hc => hc.create_eq (by decide)

/-- The commands that may change the creation context. -/
abbrev createCommands : List Instr := [.archBegin, .archAdd, .archEnd]

theorem bodyOf_createSound {i : Instr} {s : State} (hi : i ∈ createCommands) (hp : s.params.Legal)
    (hs : CreateSound s.params s.create) (hc : contextPresent i s = true) :
    Leaves (fun u => CreateSound s.params u.create) Done.state (bodyOf i s) := by
  cases i with
  | archBegin =>
    exact leaves_raisedIn_bind (createSound_zero _) fun m hm => .ok (createSound_begunCreate hp hm)
  | archAdd =>
    refine leaves_raisedIn_bind hs fun q hq => ?_
    obtain ⟨hpath, hslot⟩ := addPath_fits s q hq
    refine (frameEncodeBody_create _ s _ _ _ _).bind_of_imp (fun u hu => hu ▸ hs) fun f hf hcreate => .ok ?_
    obtain ⟨-, hlength, -⟩ := frameEncodeBody_stores f hf
    show CreateSound s.params (addMember s.params f.state.create q (a1 s) f.length)
    rw [hcreate]
    exact createSound_addMember hs hc hslot hpath (a1 s) hlength
  | archEnd =>
    exact leaves_raisedIn_bind hs fun _ _ => leaves_raisedIn_bind hs fun _ _ => .ok hs.closed
  | _ => exact absurd hi (by decide)

theorem failureEffects_createSound {p : Config.Params} (i : Instr) {u : State} (hu : CreateSound p u.create) :
    CreateSound p (failureEffects i u).create := by
  cases i with
  | archAdd => exact hu.failedAdd
  | archEnd => exact hu.closed
  | _ => exact hu

theorem exec_createSound {i : Instr} {s t : State} (hp : s.params.Legal) (hs : CreateSound s.params s.create)
    (h : exec i s = .next t) : CreateSound s.params t.create := by
  by_cases hi : i ∈ createCommands
  · exact exec_units_of_leaves (fun x => CreateSound s.params x.2.2.1) hs (bodyOf_createSound hi hp hs)
      (fun _ => failureEffects_createSound i) h
  · rwa [exec_keeps (·.create) (fun _ _ hc => hc.create_eq hi) h]

/-! ### The reading context -/

/-- ARCH_OPEN's count is one of 4 bytes, and its table fits the archive (45_archive.md R284). -/
theorem openCount_fits (s : State) :
    Yields (fun n => a0 s + a1 s ≤ addressLimit ∧ n < 2 ^ 32 ∧ Config.archHdr + n * s.params.entryLen ≤ a1 s)
      (openCount s) :=
  yields_bind fun _ hrange => yields_bind fun _ _ => yields_bind fun _ _ => yields_bind fun _ _ =>
    yields_bind fun _ _ => yields_bind fun _ _ => memReadN_length.bind fun count hcount =>
    yields_bind fun _ hfits => yields_ok <| by
      have hlt := leRead_lt count
      rw [hcount] at hlt
      exact ⟨checkRange_eq_ok.1 hrange, hlt, by simpa using failIf_eq_ok.1 hfits⟩

theorem archOpen_readingSound (s : State) :
    Leaves (fun u => ReadingSound s.params u.reading) Done.state (archOpen s) := by
  refine leaves_raisedIn_bind (readingSound_closed _) fun n hn => .ok ?_
  obtain ⟨hspace, hlt, hfits⟩ := openCount_fits s n hn
  refine ⟨nofun, fun _ => ⟨?_, ?_⟩⟩
  · show Config.archHdr + n % 2 ^ 32 * s.params.entryLen ≤ a1 s % 2 ^ 64
    have ha1 : a1 s < 2 ^ 64 := s.latch.a[1].isLt
    rwa [Nat.mod_eq_of_lt hlt, Nat.mod_eq_of_lt ha1]
  · exact (Nat.add_le_add (Nat.mod_le _ _) (Nat.mod_le _ _)).trans hspace

theorem exec_readingSound {i : Instr} {s t : State} (hs : ReadingSound s.params s.reading)
    (h : exec i s = .next t) : ReadingSound s.params t.reading := by
  by_cases hi : i = .archOpen
  · subst hi
    exact exec_units_of_leaves (i := .archOpen) (fun x => ReadingSound s.params x.2.2.2) hs
      (fun _ => archOpen_readingSound s) (fun _ hu => hu) h
  · rwa [exec_keeps (·.reading) (fun _ _ hc => hc.reading_eq hi) h]

/-! ### Every step -/

theorem exec_unitsSound {i : Instr} {s t : State} (hp : s.params.Legal) (hs : UnitsSound s)
    (h : exec i s = .next t) : UnitsSound t := by
  obtain ⟨hwriter, hreader, hcreate, hreading⟩ := hs
  rw [UnitsSound, exec_params h]
  exact ⟨exec_writerSound hp hwriter h, exec_readerSound hreader h, exec_createSound hp hcreate h,
    exec_readingSound hreading h⟩

theorem hostAct_unitsSound {s t : State} {op : HostOp} (hs : UnitsSound s) (h : hostAct s op = .next t) :
    UnitsSound t := by
  obtain hu | hu := hostAct_units h
  · exact hs.of_units_eq hu (hostAct_sameInstance h)
  · exact unitsSound_of_units_eq_reset hu

theorem legal_of_sameInstance {p q : Config.Params} (hp : p.Legal) (h : SameInstance p q) : q.Legal := by
  obtain ⟨hpath, hmembers, hchunk, -⟩ := h
  rwa [Config.Params.Legal, ← hpath, ← hmembers, ← hchunk]

/-- Settles O60: a command leaves each unit sound, one command at a time, and an input keeps the units or
resets them. -/
theorem stepKeepsUnitsSound : Obligations.StepKeepsUnitsSound := by
  intro s t hp hs h
  obtain ⟨hunits, hsame⟩ : UnitsSound t ∧ SameInstance s.params t.params := by
    obtain ⟨-, i, -, hstep⟩ | ⟨-, -, hstep⟩ | ⟨-, -, hstep⟩ | ⟨-, op, rest, -, hstep⟩ := step_cases s <;>
      rw [hstep] at h
    · exact ⟨exec_unitsSound hp hs h, exec_params h ▸ ⟨rfl, rfl, rfl, rfl⟩⟩
    · exact Host.Outcome.next.inj h ▸ ⟨hs, rfl, rfl, rfl, rfl⟩
    · exact Host.Outcome.next.inj h ▸ ⟨hs, rfl, rfl, rfl, rfl⟩
    · exact ⟨hostAct_unitsSound (s := s.takeInput rest) hs h, hostAct_sameInstance (s := s.takeInput rest) h⟩
  exact ⟨hunits, legal_of_sameInstance hp hsame, hsame⟩

end Sys2Proof.Machine

namespace Sys2Proof.Machine

/-! PROOFS. The frame codec: what a command reads and how it fails, and the checks of the frame codec and of
ARCH_EXTRACT (spec/44_frame_codec.md R260, R262; 45_archive.md R287; 60_exceptions.md R328). -/

/-! ### Checks that pass and checks that fail -/

theorem checkRange_of_le {a n k : Nat} (h : a + n ≤ addressLimit) : checkRange a n k = .ok () :=
  checkRange_eq_ok.2 h

theorem failIf_of {P : Prop} [Decidable P] (h : P) (c : ErrCode) (info : Nat) :
    failIf (decide P) c info = .error { code := c, info := info } :=
  failIf_eq_error.2 ⟨decide_eq_true h, rfl⟩

theorem failIf_of_not {P : Prop} [Decidable P] (h : ¬P) (c : ErrCode) (info : Nat) :
    failIf (decide P) c info = .ok () :=
  failIf_eq_ok.2 (decide_eq_false h)

/-! ### A command's reads and its failure -/

/-- The engine reads the bytes of `[a, a + n)` as memory holds them. -/
def ReadsAs (v : View) (m : Memory) (a n : Nat) : Prop :=
  ∀ x, a ≤ x → x < a + n → memRead v x = .ok (readByte m x)

theorem ReadsAs.sub {v : View} {m : Memory} {a n b k : Nat} (h : ReadsAs v m a n) (hlo : a ≤ b)
    (hhi : b + k ≤ a + n) : ReadsAs v m b k :=
  fun x hx hlt => h x (hlo.trans hx) (hlt.trans_le hhi)

theorem take_memBytes (m : Memory) (a : Nat) {n k : Nat} (h : k ≤ n) :
    (memBytes m a n).take k = memBytes m a k := by
  obtain ⟨j, rfl⟩ := Nat.exists_eq_add_of_le h
  rw [memBytes_add, List.take_left' (length_memBytes m a k)]

theorem drop_memBytes (m : Memory) (a : Nat) {n k : Nat} (h : k ≤ n) :
    (memBytes m a n).drop k = memBytes m (a + k) (n - k) := by
  obtain ⟨j, rfl⟩ := Nat.exists_eq_add_of_le h
  rw [memBytes_add, List.drop_left' (length_memBytes m a k), Nat.add_sub_cancel_left]

theorem ReadsAs.memReadN {v : View} {m : Memory} {a n : Nat} (h : ReadsAs v m a n) :
    memReadN v a n = .ok (memBytes m a n) := by
  induction n generalizing a with
  | zero => rfl
  | succ n ih =>
    have hrest := ih (h.sub (Nat.le_succ a) (by omega))
    rw [memBytes_succ]
    exact except_bind_eq_ok.2 ⟨_, h a le_rfl (by omega), except_bind_eq_ok.2 ⟨_, hrest, rfl⟩⟩

/-- Without race and overlap a command reads the readable bytes of its read ranges as memory holds them
(20_memory.md R83, R84). -/
theorem readsAs_viewOf {i : Instr} {s : State} {r : Range} {a n : Nat} (hrace : RaceFree s)
    (hoverlap : OverlapFree i s) (hr : r ∈ readRanges i s) (hread : Readable s.params a n)
    (hin : ∀ x, a ≤ x → x < a + n → x < addressLimit → inRange r x = true) (k : Nat) :
    ReadsAs (viewOf i s k) s.mem a n := by
  intro x hlo hhi
  obtain ⟨hadmits, hside⟩ := hread (x - a) (by omega)
  rw [Nat.add_sub_cancel' hlo] at hadmits hside
  have hfuzz : inRanges (writeRanges i s) x = false := List.any_eq_false.2 fun q hq =>
    Bool.eq_false_iff.1 (selfOverlap_eq_false hoverlap hr hq (hin x hlo hhi (admits_eq_true.1 hadmits).1))
  rw [viewOf_raceFree hrace]
  simp [memRead, viewByte, hadmits, hfuzz, hside]

/-- The readable bytes of the source of a frame command. -/
theorem readsAs_source {i : Instr} {s : State} (hi : i ∈ [.frameEncode, .frameDecode]) (hrace : RaceFree s)
    (hoverlap : OverlapFree i s) {n : Nat} (hn : n ≤ a1 s) (hread : Readable s.params (a0 s) n) :
    ReadsAs (viewOf i s 0) s.mem (a0 s) n := by
  have hr : rangeOf (a0 s) (a1 s) ∈ readRanges i s := by
    obtain rfl | rfl : i = .frameEncode ∨ i = .frameDecode := by simpa using hi
    all_goals exact List.mem_singleton_self _
  exact readsAs_viewOf hrace hoverlap hr hread
    (fun x hlo hhi hspace => inRange_rangeOf.2 ⟨hlo, by omega, hspace⟩) 0

/-- A failed command reports its error, and leaves what it had committed with its closings; of memory nothing is
said. -/
theorem exec_eq_failedWith_mem {i : Instr} {s u : State} {c : ErrCode} {info : Nat}
    (hc : contextPresent i s = true) (hinfo : info < addressLimit)
    (hbody : bodyOf i s = .error { error := { code := c, info := info }, state := u }) :
    ∃ m, exec i s = .next (failedWith { failureEffects i u with mem := m } c.byte info) :=
  ⟨_, (exec_eq_runCommand i s).trans ((runCommand_error hc hbody).trans
    (congrArg _ (deliver_eq_failedWith _ c hinfo)))⟩

/-! ### The checks of FRAME_ENCODE -/

section
variable {s : State} {src len dst cap : Nat} (hsrc : src + len ≤ addressLimit) (hdst : dst + cap ≤ addressLimit)
include hsrc hdst

/-- After the range checks come the capacity and the sum of FREQ. -/
theorem encodeChecks_eq : encodeChecks s src len dst cap = (do
    failIf (decide (cap < 269)) .dstFull 269
    failIf (decide (addressLimit ≤ freqSum s.freq)) .freqOverflow 0
    failIf (decide (freqSum s.freq ≠ len)) .freqMismatch (freqSum s.freq)) := by
  rw [encodeChecks, checkRange_of_le hsrc, checkRange_of_le hdst]
  rfl

theorem encodeChecks_ok (hcap : 269 ≤ cap) (hsum : freqSum s.freq = len) (hlen : len < addressLimit) :
    encodeChecks s src len dst cap = .ok () := by
  rw [encodeChecks_eq hsrc hdst, failIf_of_not (Nat.not_lt.2 hcap), failIf_of_not (by omega),
    failIf_of_not (not_not.2 hsum)]
  rfl

theorem encodeChecks_dstFull (hcap : cap < 269) :
    encodeChecks s src len dst cap = .error { code := .dstFull, info := 269 } := by
  rw [encodeChecks_eq hsrc hdst, failIf_of hcap]
  rfl

theorem encodeChecks_freqOverflow (hcap : 269 ≤ cap) (hsum : addressLimit ≤ freqSum s.freq) :
    encodeChecks s src len dst cap = .error { code := .freqOverflow, info := 0 } := by
  rw [encodeChecks_eq hsrc hdst, failIf_of_not (Nat.not_lt.2 hcap), failIf_of hsum]
  rfl

theorem encodeChecks_freqMismatch (hcap : 269 ≤ cap) (hsum : freqSum s.freq < addressLimit)
    (hne : freqSum s.freq ≠ len) :
    encodeChecks s src len dst cap = .error { code := .freqMismatch, info := freqSum s.freq } := by
  rw [encodeChecks_eq hsrc hdst, failIf_of_not (Nat.not_lt.2 hcap), failIf_of_not (Nat.not_le.2 hsum),
    failIf_of hne]
  rfl

end

/-- FRAME_ENCODE fails with the error of its checks, and has committed nothing. -/
theorem exec_frameEncode_checks {s : State} {c : ErrCode} {info : Nat} (hinfo : info < addressLimit)
    (h : encodeChecks s (a0 s) (a1 s) (a2 s) (a3 s) = .error { code := c, info := info }) :
    ∃ m, exec .frameEncode s = .next (failedWith { s with writer := Writer.closed, mem := m } c.byte info) :=
  exec_eq_failedWith_mem rfl hinfo (except_bind_eq_error.2 (.inl (except_bind_eq_error.2 (.inl
    (raisedIn_eq_error.2 ⟨_, h, rfl⟩)))))

theorem encodeLengths_tooDeep {s : State} {len k : Nat} {t : Tree} (hlen : len ≠ 0)
    (hbuild : buildTree s.freq = .ok t) (hdeep : treeDepths t = .error { code := .codeTooLong, info := k }) :
    encodeLengths s len = .error { error := { code := .codeTooLong, info := k }, state := withTree s t } := by
  rw [encodeLengths, if_neg hlen]
  exact except_bind_eq_error.2 (.inr ⟨t, raisedIn_eq_ok.2 hbuild,
    except_bind_eq_error.2 (.inl (raisedIn_eq_error.2 ⟨_, hdeep, rfl⟩))⟩)

/-- The symbol TREE_LENGTHS reports as too deep is one of the 256. -/
theorem info_lt_of_treeDepths_eq_error {t : Tree} {e : CmdError} (h : treeDepths t = .error e) :
    e.info < 256 := by
  unfold treeDepths at h
  dsimp only at h
  split at h
  next k hk => exact Except.error.inj h ▸ List.mem_range.1 (List.mem_of_find?_eq_some hk)
  next => exact nomatch h

/-- Settles O43: the checks in their order, and the lengths after the tree is committed. -/
theorem frameEncodeChecksItsInputs : Obligations.FrameEncodeChecksItsInputs := by
  intro s _ hsrc hdst
  refine ⟨fun hcap => exec_frameEncode_checks (by decide) (encodeChecks_dstFull hsrc hdst hcap),
    fun hcap hsum => exec_frameEncode_checks (by decide) (encodeChecks_freqOverflow hsrc hdst hcap hsum),
    fun hcap hsum hne => exec_frameEncode_checks hsum (encodeChecks_freqMismatch hsrc hdst hcap hsum hne),
    fun t k hcap hsum hlen hbuild hdeep => ?_⟩
  have hchecks := encodeChecks_ok hsrc hdst hcap hsum s.latch.a[1].isLt
  have htables : encodeTables s (a1 s) = .error _ :=
    except_bind_eq_error.2 (.inl (encodeLengths_tooDeep hlen hbuild hdeep))
  have hbody : bodyOf .frameEncode s =
      .error { error := { code := .codeTooLong, info := k }, state := withTree s t } :=
    except_bind_eq_error.2 (.inl (except_bind_eq_error.2 (.inr ⟨(), raisedIn_eq_ok.2 hchecks,
      except_bind_eq_error.2 (.inl htables)⟩)))
  exact exec_eq_failedWith_mem rfl ((info_lt_of_treeDepths_eq_error hdeep).trans (by decide)) hbody

/-! ### The checks of the decoders -/

/-- FRAME_DECODE fails with the error of its header, and has committed nothing. -/
theorem exec_frameDecode_header {s : State} {c : ErrCode} {info : Nat} (hinfo : info < addressLimit)
    (h : decodeHeader (viewOf .frameDecode s 0) (a0 s) (a1 s) (a2 s) (a3 s) =
      .error { code := c, info := info }) :
    ∃ m, exec .frameDecode s = .next (failedWith { s with reader := Reader.closed, mem := m } c.byte info) :=
  exec_eq_failedWith_mem rfl hinfo (except_bind_eq_error.2 (.inl (except_bind_eq_error.2 (.inl
    (raisedIn_eq_error.2 ⟨_, h, rfl⟩)))))

section
variable {v : View} {src len dst cap : Nat} (hsrc : src + len ≤ addressLimit) (hdst : dst + cap ≤ addressLimit)
include hsrc hdst

theorem decodeHeader_truncated (hlen : len < 269) :
    decodeHeader v src len dst cap = .error { code := .truncatedHeader, info := len } := by
  rw [decodeHeader, checkRange_of_le hsrc, checkRange_of_le hdst,
    failIf_of hlen]
  rfl

/-- A frame long enough for its header is read, the magic first. -/
theorem decodeHeader_eq (hlen : 269 ≤ len) {m : Memory} (hread : ReadsAs v m src 4) :
    decodeHeader v src len dst cap = (do
      failIf (decide (memBytes m src 4 ≠ frameMagic)) .badMagic 0
      let bs ← memReadN v (src + 4) 265
      .ok (headerOfBytes bs)) := by
  rw [decodeHeader, checkRange_of_le hsrc, checkRange_of_le hdst,
    failIf_of_not (Nat.not_lt.2 hlen), hread.memReadN]
  rfl

theorem decodeHeader_badMagic (hlen : 269 ≤ len) {m : Memory} (hread : ReadsAs v m src 4)
    (hmagic : memBytes m src 4 ≠ frameMagic) :
    decodeHeader v src len dst cap = .error { code := .badMagic, info := 0 } := by
  rw [decodeHeader_eq hsrc hdst hlen hread, failIf_of hmagic]
  rfl

end

/-- ARCH_EXTRACT fails with the error of its entry, and has committed nothing. -/
theorem exec_archExtract_entry {s : State} {c : ErrCode} {info : Nat} (hc : s.reading.archR = true)
    (hinfo : info < addressLimit) (h : extractEntry s = .error { code := c, info := info }) :
    ∃ m, exec .archExtract s = .next (failedWith { s with reader := Reader.closed, mem := m } c.byte info) :=
  exec_eq_failedWith_mem (i := .archExtract) hc hinfo (except_bind_eq_error.2 (.inl
    (raisedIn_eq_error.2 ⟨_, h, rfl⟩)))

theorem extractEntry_badIndex {s : State} (hrange : a1 s + a2 s ≤ addressLimit)
    (hindex : s.reading.xn.toNat ≤ a0 s) : extractEntry s = .error { code := .badIndex, info := a0 s } := by
  rw [extractEntry, checkRange_of_le hrange, checkIndex, failIf_of hindex]
  rfl

/-- The sizes and the offset of the entry whose 24 bytes begin at `a`, checked (45_archive.md R287). -/
theorem extractEntry_eq {s : State} {a : Nat} (hrange : a1 s + a2 s ≤ addressLimit)
    (hindex : a0 s < s.reading.xn.toNat) (ha : entryAddr s (a0 s) + s.params.pathLen = a)
    (hread : ReadsAs (viewOf .archExtract s 0) s.mem a 24) : extractEntry s = (do
      failIf (decide (s.reading.xlen.toNat <
        leRead (memBytes s.mem (a + 16) 8) + leRead (memBytes s.mem (a + 8) 8))) .truncatedMember (a0 s)
      .ok (leRead (memBytes s.mem a 8), leRead (memBytes s.mem (a + 8) 8),
        leRead (memBytes s.mem (a + 16) 8))) := by
  rw [extractEntry, checkRange_of_le hrange, checkIndex, failIf_of_not (Nat.not_le.2 hindex),
    ha, hread.memReadN]
  simp [bind, Except.bind, take_memBytes, drop_memBytes]

/-- The 24 bytes after the path of an entry of a sound archive lie in it (45_archive.md R284, R285). -/
theorem readsAs_entry {s : State} {a : Nat} (hrace : RaceFree s) (hoverlap : OverlapFree .archExtract s)
    (harch : s.reading.archR = true) (hsound : ReadingSound s.params s.reading)
    (hindex : a0 s < s.reading.xn.toNat) (ha : entryAddr s (a0 s) + s.params.pathLen = a)
    (hread : Readable s.params a 24) (k : Nat) : ReadsAs (viewOf .archExtract s k) s.mem a 24 := by
  obtain ⟨htable, -⟩ := hsound.2 harch
  have hentry : (a0 s + 1) * s.params.entryLen ≤ s.reading.xn.toNat * s.params.entryLen :=
    Nat.mul_le_mul_right _ hindex
  rw [Nat.succ_mul] at hentry
  simp only [entryAddr, Config.Params.entryLen, Config.archHdr] at ha hentry htable
  exact readsAs_viewOf hrace hoverlap (List.mem_singleton_self _) hread
    (fun x hlo hhi hspace => inRange_rangeOf.2 ⟨by omega, by omega, hspace⟩) k

/-- Settles O55: each check fails before anything is committed. -/
theorem decodersCheckTheirInputs : Obligations.DecodersCheckTheirInputs := by
  refine ⟨fun s hsrc hdst => ⟨fun hlen => ?_, fun hlen hrace hoverlap hread hmagic => ?_⟩,
    fun s a harch hrange ha => ⟨fun hindex => ?_, fun hindex hrace hread hoverlap hsound hlong => ?_⟩⟩
  · exact exec_frameDecode_header s.latch.a[1].isLt (decodeHeader_truncated hsrc hdst hlen)
  · have hreads := readsAs_source (i := .frameDecode) (by decide) hrace hoverlap (by omega) hread
    exact exec_frameDecode_header (by decide) (decodeHeader_badMagic hsrc hdst hlen hreads hmagic)
  · exact exec_archExtract_entry harch s.latch.a[0].isLt (extractEntry_badIndex hrange hindex)
  · have hreads := readsAs_entry hrace hoverlap harch hsound hindex ha.symm hread 0
    have hentry : extractEntry s = .error { code := .truncatedMember, info := a0 s } := by
      rw [extractEntry_eq hrange hindex ha.symm hreads, failIf_of hlong]
      rfl
    exact exec_archExtract_entry harch s.latch.a[0].isLt hentry

end Sys2Proof.Machine

namespace Sys2Proof.Machine

/-! PROOFS. The frame codec: the payload and the tables of FRAME_ENCODE (spec/44_frame_codec.md R260). -/

/-! ### A chunk size of zero

The statements about frames do not ask for legal parameters. A chunk of 0 bytes is never full, so the bit
writer treats CHUNK_BYTES = 0 as a chunk larger than any it can gather. -/

/-- The parameters with a chunk size that is never 0. -/
def withChunk (p : Config.Params) : Config.Params :=
  { p with chunkBytes := if p.chunkBytes = 0 then addressLimit else p.chunkBytes }

theorem withChunk_pos (p : Config.Params) : 0 < (withChunk p).chunkBytes := by
  unfold withChunk
  dsimp only
  split
  · decide
  next h => exact Nat.pos_of_ne_zero h

section
variable {p : Config.Params} {w : Writer} {m : Memory}

theorem memWriteN_withChunk (a : Nat) (bs : List Byte) :
    memWriteN (withChunk p) m a bs = memWriteN p m a bs := by
  induction bs generalizing m a with
  | nil => rfl
  | cons b bs ih => exact congrArg (memWrite p m a b >>= ·) (funext fun _ => ih _)

theorem chunkWrite_withChunk : chunkWrite (withChunk p) w m = chunkWrite p w m := by
  rw [chunkWrite, memWriteN_withChunk, chunkWrite]

theorem putByte_withChunk (hw : WriterFits w) (v : Byte) : putByte (withChunk p) w m v = putByte p w m v := by
  obtain hfull | hroom := le_or_gt w.wcap.toNat w.wpos.toNat
  · rw [putByte_full hfull, putByte_full hfull]
  · have hcount := hw.count
    have hspace : w.wcap.toNat < addressLimit := w.wcap.isLt
    have hlength : (w.push v).chunk.length = w.chunk.length + 1 := by simp [Writer.push]
    have hsize : (w.push v).chunk.length = (withChunk p).chunkBytes ↔
        (w.push v).chunk.length = p.chunkBytes := by
      unfold withChunk
      dsimp only
      split <;> omega
    rw [putByte_of_room hroom, putByte_of_room hroom, chunkWrite_withChunk]
    exact if_congr hsize rfl rfl

theorem putBit_withChunk (hw : WriterFits w) (b : Bool) : putBit (withChunk p) w m b = putBit p w m b := by
  unfold putBit
  dsimp only
  rw [putByte_withChunk hw]

theorem writeBits_withChunk (hw : WriterFits w) (bits : Word) (n : Nat) :
    writeBits (withChunk p) bits n w m = writeBits p bits n w m := by
  induction n generalizing w m with
  | zero => rfl
  | succ n ih =>
    rw [writeBits, putBit_withChunk hw, writeBits]
    cases hput : putBit p w m (containerBit bits n) with
    | error e => rfl
    | ok x => exact ih (putBit_ran _ hw x hput).fits

theorem flushWriter_withChunk (hw : WriterFits w) : flushWriter (withChunk p) w m = flushWriter p w m := by
  have hpadded : putPadded (withChunk p) w m = putPadded p w m := by
    rw [putPadded, putByte_withChunk hw, putPadded]
  rw [flushWriter_eq_putPadded_bind, flushWriter_eq_putPadded_bind, hpadded]
  exact congrArg _ (funext fun x => chunkWrite_withChunk)

/-! ### Bits into a destination of which only the bytes they fill need be admitted -/

theorem exists_putBit_eq_ok_of_writable (hw : WriterFits w)
    (hroom : (8 * w.wpos.toNat + w.wnacc.toNat + 1) / 8 ≤ w.wcap.toNat)
    (hwritable : Writable p w.wdst.toNat ((8 * w.wpos.toNat + w.wnacc.toNat + 1) / 8)) (b : Bool) :
    ∃ x, putBit p w m b = .ok x := by
  unfold putBit
  dsimp only
  split
  · obtain ⟨x, hx⟩ := exists_putByte_eq_ok (m := m) hw (by omega)
      (BitVec.ofNat 8 (w.wacc.toNat * 2 + b.toNat)) (hwritable.sub le_rfl (by omega))
    exact ⟨_, except_bind_eq_ok.2 ⟨x, hx, rfl⟩⟩
  · exact ⟨_, rfl⟩

theorem exists_writeBits_eq_ok_of_writable (hw : WriterReady p w) (bits : Word) {n : Nat}
    (hroom : (8 * w.wpos.toNat + w.wnacc.toNat + n) / 8 ≤ w.wcap.toNat)
    (hwritable : Writable p w.wdst.toNat ((8 * w.wpos.toNat + w.wnacc.toNat + n) / 8)) :
    ∃ x, writeBits p bits n w m = .ok x := by
  induction n generalizing w m with
  | zero => exact ⟨_, rfl⟩
  | succ n ih =>
    obtain ⟨y, hy⟩ := exists_putBit_eq_ok_of_writable (m := m) hw.fits (by omega)
      (hwritable.sub le_rfl (by omega)) (containerBit bits n)
    have hadds := putBit_adds hw _ y hy
    have hcount := hadds.count hw.fits
    rw [List.length_singleton] at hcount
    obtain ⟨x, hx⟩ := ih (m := y.2) hadds.ready (by rw [hadds.ran.wcap]; omega)
      (by rw [hadds.ran.wdst]; exact hwritable.sub le_rfl (by omega))
    exact ⟨x, except_bind_eq_ok.2 ⟨y, hy, hx⟩⟩

end

/-! ### The payload -/

/-- A table has a nonzero entry for a byte. -/
theorem getElem?_ne_some_zero_iff {n : Nat} {f : Vector (BitVec n) 256} {x : Byte} :
    f[x.toNat]? ≠ some 0 ↔ f[(⟨x.toNat, x.isLt⟩ : Fin 256)] ≠ 0 := by
  rw [Vector.getElem?_eq_getElem x.isLt, Ne, Option.some.injEq]
  rfl

theorem payloadBits_cons (l : Vector Byte 256) (x : Byte) (xs : List Byte) :
    payloadBits l (x :: xs) = codeBits l x ++ payloadBits l xs := rfl

section
variable {v : View} {s : State} {src n i : Nat} {w : Writer} {m : Memory} {x : Byte}

/-- A round of the loop: the byte is read, has a code, and its code is written. -/
theorem encodePayload_succ {y : Writer × Memory} (hread : memRead v (src + i) = .ok x)
    (hx : s.len[x.toNat]? ≠ some 0)
    (hy : writeBits s.params s.canon.code[(⟨x.toNat, x.isLt⟩ : Fin 256)]
      (s.len[(⟨x.toNat, x.isLt⟩ : Fin 256)]).toNat w m = .ok y) :
    encodePayload v s src (n + 1) i w m = encodePayload v s src n (i + 1) y.1 y.2 := by
  rw [encodePayload, hread]
  dsimp only [havingStored, bind, Except.bind]
  rw [symbolTables_of_lt s ⟨x.toNat, x.isLt⟩]
  dsimp only
  rw [failIf_of_not (toNat_pos_iff.2 (getElem?_ne_some_zero_iff.1 hx)).ne', hy]

/-- The code of a byte is written if the bytes it fills have room and are admitted. -/
theorem exists_writeCode_eq_ok (hl : Assignable s.len) (hcanon : s.canon = canonTables s.len)
    (hw : WriterReady (withChunk s.params) w) {t : Nat}
    (ht : t = 8 * w.wpos.toNat + w.wnacc.toNat + (codeBits s.len x).length) (hroom : t / 8 ≤ w.wcap.toNat)
    (hwritable : Writable s.params w.wdst.toNat (t / 8)) :
    ∃ y, writeBits s.params s.canon.code[(⟨x.toNat, x.isLt⟩ : Fin 256)]
        (s.len[(⟨x.toNat, x.isLt⟩ : Fin 256)]).toNat w m = .ok y ∧
      BitsAdded (withChunk s.params) w m (codeBits s.len x) y := by
  subst ht
  rw [codeBits, length_lowBits] at hroom hwritable
  obtain ⟨y, hy⟩ := exists_writeBits_eq_ok_of_writable (m := m) hw s.canon.code[(⟨x.toNat, x.isLt⟩ : Fin 256)]
    hroom hwritable
  have hadds := writeBits_adds hw _ _ y hy
  rw [hcanon, hl.toNat_code] at hadds
  exact ⟨y, (writeBits_withChunk hw.fits _ _).symm.trans hy, hadds⟩

/-- The loop puts the codes of the source's bytes into the writer (44_frame_codec.md R260; 30_encoding.md
R106). -/
theorem exists_encodePayload_eq_ok (hl : Assignable s.len) (hcanon : s.canon = canonTables s.len) {m0 : Memory}
    (hread : ReadsAs v m0 (src + i) n)
    (hpresent : ∀ x ∈ memBytes m0 (src + i) n, s.len[x.toNat]? ≠ some 0) (hw : WriterReady (withChunk s.params) w)
    {t : Nat} (ht : t = 8 * w.wpos.toNat + w.wnacc.toNat + (payloadBits s.len (memBytes m0 (src + i) n)).length)
    (hroom : t / 8 ≤ w.wcap.toNat) (hwritable : Writable s.params w.wdst.toNat (t / 8)) :
    ∃ x, encodePayload v s src n i w m = .ok x ∧
      BitsAdded (withChunk s.params) w m (payloadBits s.len (memBytes m0 (src + i) n)) x := by
  induction n generalizing i w m with
  | zero => exact ⟨_, rfl, .refl hw⟩
  | succ n ih =>
    rw [memBytes_succ] at hpresent ht ⊢
    obtain ⟨hx, hrest⟩ := List.forall_mem_cons.1 hpresent
    rw [payloadBits_cons, List.length_append, ← Nat.add_assoc] at ht
    obtain ⟨y, hy, hadds⟩ := exists_writeCode_eq_ok (m := m) hl hcanon hw rfl
      ((Nat.div_le_div_right (ht ▸ Nat.le_add_right _ _)).trans hroom)
      (hwritable.sub le_rfl (Nat.add_le_add_left (Nat.div_le_div_right (ht ▸ Nat.le_add_right _ _)) _))
    obtain ⟨z, hz, hadds'⟩ := ih (i := i + 1) (m := y.2) (hread.sub (Nat.le_succ _) (by omega)) hrest
      hadds.ready (by rw [hadds.count hw.fits]; exact ht) (by rwa [hadds.ran.wcap]) (by rwa [hadds.ran.wdst])
    exact ⟨z, (encodePayload_succ (hread _ le_rfl (by omega)) hx hy).trans hz, hadds.trans hadds'⟩

end

/-! ### The tables of FRAME_ENCODE -/

theorem assignable_zero : Assignable (Vector.replicate 256 0) := by
  have hsum : ((Vector.replicate 256 (0 : Byte)).toList.map kraftTerm).sum = 0 := by
    rw [Vector.toList_replicate, List.map_replicate, List.sum_replicate]
    exact smul_zero 256
  exact (assignCodes_eq_ok_iff.1 (assignCodes_eq_ok_of_kraft (by simp) (hsum ▸ Nat.zero_le _))).1

section
variable {f : Vector Word 256} {n : Nat} {l : Vector Byte 256}

theorem frameLengths_eq_ok_iff : frameLengths f n = .ok l ↔
    (n = 0 ∧ l = Vector.replicate 256 0) ∨ (n ≠ 0 ∧ ∃ t, buildTree f = .ok t ∧ treeDepths t = .ok l) := by
  unfold frameLengths
  split
  next hn => simp [hn, eq_comm]
  next hn => rw [except_bind_eq_ok]; simp [hn]

/-- CANON_ASSIGN accepts the lengths FRAME_ENCODE gives (41_tree_builder.md R179). -/
theorem assignable_of_frameLengths (h : frameLengths f n = .ok l) : Assignable l := by
  obtain ⟨-, rfl⟩ | ⟨-, t, hbuild, hdepths⟩ := frameLengths_eq_ok_iff.1 h
  · exact assignable_zero
  · obtain ⟨-, c, hc⟩ := treeLengthsMeetKraft f t l hbuild hdepths
    exact (assignCodes_eq_ok_iff.1 hc).1

/-- A byte that is counted in FREQ has a code. -/
theorem length_ne_zero_of_freq (h : frameLengths f n = .ok l) (hn : n ≠ 0) {x : Byte}
    (hx : f[x.toNat]? ≠ some 0) : l[x.toNat]? ≠ some 0 := by
  obtain ⟨hzero, -⟩ | ⟨-, t, hbuild, hdepths⟩ := frameLengths_eq_ok_iff.1 h
  · exact absurd hzero hn
  · obtain ⟨ms, r, hmerged⟩ := mergedTree_of_buildTree hbuild
    rw [getElem?_ne_some_zero_iff] at hx ⊢
    rwa [← toNat_pos_iff, (of_treeDepths_eq_ok hdepths _).2, Nat.pos_iff_ne_zero, Ne,
      hmerged.codeDepth_eq_zero_iff]

end

/-- The state with the lengths `l`, their canonical tables, and a tree. -/
def withTables (s : State) (l : Vector Byte 256) (tree : Tree) (treeValid : Bool) : State :=
  { s with tree := tree, treeValid := treeValid, len := l, canon := canonTables l, canonValid := true }

/-- FRAME_ENCODE's tables stand in `s1`: those of the lengths `l`, and the tree of FREQ or, for an empty source,
the tree as it was (44_frame_codec.md R260). -/
structure TablesSet (s : State) (len : Nat) (l : Vector Byte 256) (s1 : State) : Prop where
  eq : s1 = withTables s l s1.tree s1.treeValid
  empty : len = 0 → s1.tree = s.tree ∧ s1.treeValid = s.treeValid
  built : len ≠ 0 → buildTree s.freq = .ok s1.tree ∧ s1.treeValid = true

theorem exists_encodeTables_eq_ok {s : State} {len : Nat} {l : Vector Byte 256}
    (h : frameLengths s.freq len = .ok l) :
    ∃ s1, encodeTables s len = .ok s1 ∧ TablesSet s len l s1 := by
  have hassign : assignCodes l = .ok (canonTables l) :=
    assignCodes_eq_ok_iff.2 ⟨assignable_of_frameLengths h, rfl⟩
  obtain ⟨hlen, rfl⟩ | ⟨hlen, t, hbuild, hdepths⟩ := frameLengths_eq_ok_iff.1 h
  · exact ⟨_, except_bind_eq_ok.2 ⟨_, if_pos hlen, except_bind_eq_ok.2 ⟨_, raisedIn_eq_ok.2 hassign, rfl⟩⟩,
      rfl, fun _ => ⟨rfl, rfl⟩, (absurd hlen ·)⟩
  · have hlengths : encodeLengths s len = .ok (withLengths (withTree s t) l) :=
      (if_neg hlen).trans (except_bind_eq_ok.2 ⟨t, raisedIn_eq_ok.2 hbuild,
        except_bind_eq_ok.2 ⟨l, raisedIn_eq_ok.2 hdepths, rfl⟩⟩)
    exact ⟨_, except_bind_eq_ok.2 ⟨_, hlengths, except_bind_eq_ok.2 ⟨_, raisedIn_eq_ok.2 hassign, rfl⟩⟩,
      rfl, (absurd · hlen), fun _ => ⟨hbuild, rfl⟩⟩

end Sys2Proof.Machine

namespace Sys2Proof.Machine

/-! PROOFS. The frame codec: the frame FRAME_ENCODE writes (spec/44_frame_codec.md R260, R261; 30_encoding.md
R105, R106). -/

/-! ### The payload, flushed -/

/-- An address at which a byte can stand fits 64 bits. -/
theorem toNat_address {a n : Nat} (h : a + n ≤ addressLimit) : (BitVec.ofNat 64 a).toNat = a ∨ n = 0 := by
  obtain rfl | hn := Nat.eq_zero_or_pos n
  · exact .inr rfl
  · exact .inl (toNat_ofNat_of_lt (show a < addressLimit by omega))

theorem memBytes_address {a n : Nat} (h : a + n ≤ addressLimit) (m : Memory) :
    memBytes m (BitVec.ofNat 64 a).toNat n = memBytes m a n := by
  obtain ha | rfl := toNat_address h
  · rw [ha]
  · rfl

theorem Writable.address {p : Config.Params} {a n : Nat} (h : Writable p a n) (hspace : a + n ≤ addressLimit) :
    Writable p (BitVec.ofNat 64 a).toNat n := by
  obtain ha | rfl := toNat_address hspace
  · rwa [ha]
  · exact fun k hk => absurd hk (Nat.not_lt_zero k)

theorem writerReady_openedWriter (p : Config.Params) (dst cap : Nat) :
    WriterReady (withChunk p) (openedWriter dst cap) :=
  ⟨⟨rfl, Nat.zero_le _⟩, withChunk_pos p, Nat.one_pos⟩

theorem writerBits_openedWriter (dst cap : Nat) (m : Memory) : writerBits (openedWriter dst cap) m = [] := rfl

/-- FRAME_ENCODE's use of the bit writer: the loop `x` and the flush `y` leave the payload, packed and padded,
at `dst` (30_encoding.md R106). -/
structure PayloadWritten (dst : Nat) (bits : List Bool) (m : Memory) (x y : Writer × Memory) : Prop where
  wpos : y.1.wpos.toNat = bytesFor bits.length
  pad : padBits x.1 = 8 * bytesFor bits.length - bits.length
  packed : bitsOf (memBytes y.2 dst (bytesFor bits.length)) =
    bits ++ List.replicate (8 * bytesFor bits.length - bits.length) false
  stores : Stores dst (dst + bytesFor bits.length) m y.2

theorem exists_payload_eq_ok {v : View} {s : State} (hl : Assignable s.len)
    (hcanon : s.canon = canonTables s.len) {m0 m : Memory} {src n dst cap : Nat} {bits : List Bool}
    (hbits : bits = payloadBits s.len (memBytes m0 src n)) (hread : ReadsAs v m0 src n)
    (hpresent : ∀ x ∈ memBytes m0 src n, s.len[x.toNat]? ≠ some 0) (hspace : dst + cap ≤ addressLimit)
    (hcap : cap < addressLimit) (hroom : bytesFor bits.length ≤ cap)
    (hwritable : Writable s.params dst (bytesFor bits.length)) :
    ∃ x y, encodePayload v s src n 0 (openedWriter dst cap) m = .ok x ∧
      flushWriter s.params x.1 x.2 = .ok y ∧ PayloadWritten dst bits m x y := by
  have hready := writerReady_openedWriter s.params dst cap
  have hwcap : (openedWriter dst cap).wcap.toNat = cap := toNat_ofNat_of_lt hcap
  have hwritable : Writable s.params (openedWriter dst cap).wdst.toNat (bytesFor bits.length) :=
    hwritable.address (by omega)
  have hfull : bits.length / 8 ≤ bytesFor bits.length := Nat.div_le_div_right (Nat.le_add_right _ 7)
  obtain ⟨x, hx, hadds⟩ := exists_encodePayload_eq_ok (i := 0) (m := m) hl hcanon hread hpresent hready
    (t := bits.length) (by rw [hbits]; exact (Nat.zero_add _).symm) (by omega)
    (hwritable.sub le_rfl (by omega))
  rw [Nat.add_zero, ← hbits] at hadds
  have hcount : 8 * x.1.wpos.toNat + x.1.wnacc.toNat = bits.length :=
    (hadds.count hready.fits).trans (Nat.zero_add _)
  have hpad : padBits x.1 = 8 * bytesFor bits.length - bits.length := by
    have := x.1.wnacc.isLt
    rw [padBits, bytesFor]
    omega
  obtain ⟨y, hy, hran, hempty, hwpos, hpacked⟩ := exists_flushWriter_eq_ok (m := x.2) hadds.ready
    (by rw [hcount, hadds.ran.wcap]; omega) (by rw [hcount, hadds.ran.wdst]; exact hwritable)
  rw [hcount] at hwpos
  have hran := hadds.ran.trans hran
  have hwcfl : y.1.wcfl.toNat = bytesFor bits.length := by
    rw [← hwpos, ← hran.fits.count, hempty, List.length_nil, Nat.add_zero]
  have hstores := (openedWriter_stores hspace hran).2
  rw [hwpos] at hstores
  rw [flushWriter_withChunk hadds.ran.fits] at hy
  refine ⟨x, y, hx, hy, hwpos, hpad, ?_, hstores⟩
  rw [heldBytes, hempty, List.append_nil, hran.wdst, hwcfl, hadds.held, writerBits_openedWriter, List.nil_append,
    hpad] at hpacked
  rw [← hpacked]
  exact congrArg bitsOf (memBytes_address (by omega) y.2).symm

/-! ### The frame -/

theorem frameHeader_take (size : Nat) (l : Vector Byte 256) :
    (frameHeader size l).take 268 = frameMagic ++ leBytes 8 size ++ l.toList :=
  List.take_left' (by simp [frameMagic, length_leBytes])

/-- The header, the payload after it and the padding count written last make the frame. -/
theorem frameAt_of_written {m1 : Memory} {dst : Nat} {l : Vector Byte 256} {xs : List Byte}
    {x y : Writer × Memory} (hheader : memBytes m1 dst 269 = frameHeader xs.length l)
    (hpayload : PayloadWritten (dst + 269) (payloadBits l xs) m1 x y) (hspace : dst + 269 ≤ addressLimit) :
    FrameAt (writeByte y.2 (dst + 268) (BitVec.ofNat 8 (padBits x.1))) dst l xs := by
  have hother (a : Nat) (ha : a ≠ dst + 268) :
      readByte (writeByte y.2 (dst + 268) (BitVec.ofNat 8 (padBits x.1))) a = readByte y.2 a := by
    rw [readByte_writeByte, if_neg fun h => ha h.1]
  refine ⟨?_, ?_, ?_⟩
  · rw [memBytes_congr fun k hk => hother (dst + k) (by omega),
      memBytes_of_stores hpayload.stores (by omega), ← take_memBytes m1 dst (by decide : 268 ≤ 269), hheader,
      frameHeader_take]
  · have hlt : padBits x.1 < 2 ^ 8 := (Nat.mod_lt _ (by decide)).trans (by decide : 8 < 2 ^ 8)
    rw [readByte_writeByte, if_pos ⟨rfl, by omega⟩, toNat_ofNat_of_lt hlt, hpayload.pad]
  · rw [memBytes_congr fun k _ => hother (dst + 269 + k) (by omega), hpayload.packed]

theorem exists_encodeFrame_eq_ok {v : View} {s : State} (hl : Assignable s.len)
    (hcanon : s.canon = canonTables s.len) {m0 : Memory} {src len dst cap : Nat} {xs : List Byte}
    (hxs : xs = memBytes m0 src len) (hread : ReadsAs v m0 src len)
    (hpresent : ∀ x ∈ xs, s.len[x.toNat]? ≠ some 0) (hspace : dst + cap ≤ addressLimit)
    (hroom : 269 + bytesFor (payloadBits s.len xs).length ≤ cap)
    (hwritable : Writable s.params dst (269 + bytesFor (payloadBits s.len xs).length)) :
    ∃ m, encodeFrame v s src len dst cap = .ok
        { state := closeWriter { s with mem := m }
          length := 269 + bytesFor (payloadBits s.len xs).length
          pad := 8 * bytesFor (payloadBits s.len xs).length - (payloadBits s.len xs).length } ∧
      FrameAt m dst s.len xs := by
  have hlength : xs.length = len := by rw [hxs, length_memBytes]
  have hheaderLength : (frameHeader len s.len).length = 269 := length_frameHeader _ _
  obtain ⟨m1, hm1⟩ := memWriteN_ok (m := s.mem) (a := dst) (bs := frameHeader len s.len)
    (hwritable.sub le_rfl (by omega))
  have hheader := memBytes_memWriteN hm1
  rw [hheaderLength, ← hlength] at hheader
  obtain ⟨x, y, hx, hy, hpayload⟩ := exists_payload_eq_ok (m := m1) (dst := dst + 269) (cap := cap - 269) hl
    hcanon (congrArg _ hxs) hread (hxs ▸ hpresent) (by omega) (by omega) (by omega)
    (hwritable.sub (Nat.le_add_right _ _) (by omega))
  have hlast : memWrite s.params y.2 (dst + 268) (BitVec.ofNat 8 (padBits x.1)) = .ok _ :=
    if_pos (hwritable 268 (by omega))
  refine ⟨_, ?_, frameAt_of_written hheader hpayload (by omega)⟩
  rw [← hpayload.pad, ← hpayload.wpos]
  exact except_bind_eq_ok.2 ⟨m1, hm1, except_bind_eq_ok.2 ⟨x, havingStored_eq_ok.2 (congrArg inFrame hx),
    except_bind_eq_ok.2 ⟨y, havingStored_eq_ok.2 (congrArg inFrame hy),
      except_bind_eq_ok.2 ⟨_, havingStored_eq_ok.2 hlast, rfl⟩⟩⟩⟩

/-! ### FRAME_ENCODE -/

/-- What the body of FRAME_ENCODE gives for the source `xs` of `len` bytes and the lengths `l`
(44_frame_codec.md R260, R261). -/
structure FrameEncoded (s : State) (len dst : Nat) (l : Vector Byte 256) (xs : List Byte) (f : Encoded) :
    Prop where
  state : f.state = closeWriter { withTables s l f.state.tree f.state.treeValid with mem := f.state.mem }
  length : f.length = 269 + bytesFor (payloadBits l xs).length
  pad : f.pad = 8 * bytesFor (payloadBits l xs).length - (payloadBits l xs).length
  empty : len = 0 → f.state.tree = s.tree ∧ f.state.treeValid = s.treeValid
  built : len ≠ 0 → buildTree s.freq = .ok f.state.tree ∧ f.state.treeValid = true
  frame : FrameAt f.state.mem dst l xs
  stores : Stores dst (dst + f.length) s.mem f.state.mem

/-- A source that `EncodeReady` allows has a code for each of its bytes. -/
theorem EncodeReady.present {s : State} {src len dst cap : Nat} {l : Vector Byte 256}
    (h : EncodeReady s src len dst cap l) : ∀ x ∈ memBytes s.mem src len, l[x.toNat]? ≠ some 0 := by
  obtain ⟨-, -, -, hlengths, hcounted, -⟩ := h
  refine fun x hx => length_ne_zero_of_freq hlengths (fun hzero => ?_) (hcounted x hx)
  subst hzero
  exact nomatch hx

/-- What `EncodeReady` asks for is enough, wherever the frame goes: FRAME_ENCODE's destination or the end of an
archive (45_archive.md R282). -/
theorem exists_frameEncodeBody_eq_ok {v : View} {s : State} {src len dst cap : Nat} {l : Vector Byte 256}
    (hready : EncodeReady s src len dst cap l) (hlen : len < addressLimit) (hread : ReadsAs v s.mem src len) :
    ∃ f, frameEncodeBody v s src len dst cap = .ok f ∧
      FrameEncoded s len dst l (memBytes s.mem src len) f := by
  have hpresent := hready.present
  obtain ⟨hsrc, hdst, hsum, hlengths, -, hroom, -, hwritable⟩ := hready
  have hchecks := encodeChecks_ok hsrc hdst (by omega) hsum hlen
  obtain ⟨s1, hs1, htables⟩ := exists_encodeTables_eq_ok hlengths
  obtain ⟨tree, treeValid, rfl⟩ : ∃ tree treeValid, s1 = withTables s l tree treeValid := ⟨_, _, htables.eq⟩
  obtain ⟨m, hm, hframe⟩ := exists_encodeFrame_eq_ok (s := withTables s l tree treeValid)
    (assignable_of_frameLengths hlengths) rfl rfl hread hpresent hdst hroom hwritable
  have hbody : frameEncodeBody v s src len dst cap = .ok _ :=
    except_bind_eq_ok.2 ⟨(), raisedIn_eq_ok.2 hchecks, except_bind_eq_ok.2 ⟨_, hs1, raisedIn_eq_ok.2 hm⟩⟩
  obtain ⟨-, -, hstores⟩ := frameEncodeBody_stores _ hbody
  exact ⟨_, hbody, rfl, rfl, rfl, htables.empty, htables.built, hframe, hstores⟩

/-- A byte outside the cut range is outside the range (20_memory.md R71). -/
theorem Stores.outside {a n x : Nat} {m m' : Memory} (h : Stores a (a + n) m m') (hspace : a + n ≤ addressLimit)
    (hx : inRange (rangeOf a n) x = false) : readByte m' x = readByte m x := by
  rw [← Bool.not_eq_true, inRange_rangeOf] at hx
  exact h x (by omega)

/-- Settles O42: the body completes, and without race and overlap its state is what stays. -/
theorem frameEncodeWritesTheFrame : Obligations.FrameEncodeWritesTheFrame := by
  intro s l xs c hready hrace hoverlap hxs hc
  obtain ⟨-, rfl⟩ := assignCodes_eq_ok_iff.1 hc
  have ⟨_, hdst, _, _, _, hroom, hreadable, _⟩ := hready
  obtain ⟨f, hf, henc⟩ := exists_frameEncodeBody_eq_ok hready s.latch.a[1].isLt
    (readsAs_source (i := .frameEncode) (by decide) hrace hoverlap le_rfl hreadable)
  rw [← hxs] at henc hroom
  have hbody : bodyOf .frameEncode s = .ok
      { state := f.state, r0 := f.length, r1 := f.pad, written := ⟨a2 s, a2 s + f.length⟩ } :=
    except_bind_eq_ok.2 ⟨f, hf, rfl⟩
  have hexec := (exec_eq_runCommand .frameEncode s).trans (runCommand_ok rfl hbody)
  rw [completed_eq_finished hoverlap hrace rfl (by rw [henc.state]; rfl)] at hexec
  refine ⟨_, hexec, ?_, henc.empty, henc.built, henc.frame, fun a ha => ?_⟩
  · rw [henc.length, henc.pad]
    exact congrArg (finished · _ _ 0 0) henc.state
  · exact (henc.length ▸ henc.stores).outside (by omega) ha

end Sys2Proof.Machine

namespace Sys2Proof.Machine

/-! PROOFS. The frame codec: FRAME_DECODE (spec/44_frame_codec.md R262, R263), and that it reads back what
FRAME_ENCODE wrote (R264). -/

/-! ### The bits the decoder leaves in its byte -/

/-- A bit that is read leaves at most seven of its byte. -/
theorem readBit_rnb_lt {v : View} {r : Reader} (hr : r.rnb.toNat < 8) :
    Yields (fun x => x.2.rnb.toNat < 8) (readBit v r) := by
  by_cases hnb : r.rnb = 0
  · obtain hend | hpos := le_or_gt r.rlen.toNat r.rpos.toNat
    · rw [readBit_at_end hnb hend]
      exact yields_ok hr
    · rw [readBit_of_refill hnb hpos]
      exact yields_bind fun b _ => yields_ok (show (7 : BitVec 4).toNat < 8 by decide)
  · rw [readBit_of_rnb_ne_zero hnb]
    exact yields_ok (by have := toNat_rnb_shifted hnb; dsimp only; omega)

theorem decodeBits_rnb_lt {v : View} {c : Canon} {produced fuel n value : Nat} {r : Reader}
    (hr : r.rnb.toNat < 8) :
    Yields (fun x => x.2.2.rnb.toNat < 8) (decodeBits v c produced fuel n value r) := by
  induction fuel generalizing n value r with
  | zero => exact nofun
  | succ fuel ih =>
    refine (readBit_rnb_lt hr).bind fun x hx => ?_
    obtain ⟨_ | b, r'⟩ := x
    · exact nofun
    · dsimp only
      split
      · exact yields_ok hx
      · split
        · exact nofun
        · exact ih hx

theorem decodeSymbol_rnb_lt {v : View} {c : Canon} {r : Reader} {produced : Nat} (hr : r.rnb.toNat < 8) :
    Yields (fun x => x.2.2.rnb.toNat < 8) (decodeSymbol v c r produced) :=
  yields_bind fun _ _ => decodeBits_rnb_lt hr

/-- RPOS counts whole bytes, begun or not (44_frame_codec.md R263): with `used` bits read of a source at whose
start nothing was read, it is the bytes they take. -/
theorem rpos_eq_bytesFor {r : Reader} {m : Memory} {used : Nat} (hr : r.rnb.toNat < 8)
    (hpos : r.rpos.toNat ≤ r.rlen.toNat) (hbits : used + (readerBits r m).length = 8 * r.rlen.toNat) :
    r.rpos.toNat = bytesFor used := by
  rw [readerBits, List.length_append, length_lowBits, length_bitsOf, length_memBytes] at hbits
  rw [bytesFor]
  omega

/-! ### The payload -/

/-- The loop decodes the symbols whose codes come next and stores them one after the other. -/
theorem Assignable.exists_decodePayload_eq_ok {l : Vector Byte 256} (hl : Assignable l) {v : View}
    {p : Config.Params} {dst i : Nat} {r : Reader} {m0 m : Memory} {xs : List Byte} {rest : List Bool}
    (hpresent : ∀ x ∈ xs, l[x.toNat]? ≠ some 0) (hbits : readerBits r m0 = payloadBits l xs ++ rest)
    (hread : RefillsFrom v r m0) (hr : r.rnb.toNat < 8) (hwritable : Writable p (dst + i) xs.length) :
    ∃ y, decodePayload v p (canonTables l) dst xs.length i r m = .ok y ∧ ReaderRan r y.1 ∧
      y.1.rnb.toNat < 8 ∧ readerBits y.1 m0 = rest ∧ memBytes y.2 (dst + i) xs.length = xs := by
  induction xs generalizing i r m with
  | nil => exact ⟨_, rfl, .refl r, hr, hbits, rfl⟩
  | cons x xs ih =>
    obtain ⟨hx, hxs⟩ := List.forall_mem_cons.1 hpresent
    rw [List.length_cons] at hwritable ⊢
    rw [payloadBits_cons, List.append_assoc] at hbits
    obtain ⟨r', hr', hran, hrest⟩ :=
      hl.decodeSymbol_code (getElem?_ne_some_zero_iff.1 hx) i hbits hread
    rw [BitVec.ofNat_toNat, BitVec.setWidth_eq] at hr'
    have hfirst := hwritable 0 (Nat.succ_pos _)
    obtain ⟨y, hy, hran', hrnb, hrest', hmem⟩ := ih (i := i + 1) (m := writeByte m (dst + i) x) hxs hrest
      (hread.ran hran) (decodeSymbol_rnb_lt hr _ hr') (hwritable.sub (Nat.le_succ _) (by omega))
    have hkept := decodePayload_stores _ hy (dst + i) (.inl (Nat.lt_succ_self _))
    rw [readByte_writeByte, if_pos ⟨rfl, (admits_eq_true.1 hfirst).1⟩] at hkept
    refine ⟨y, ?_, hran.trans hran', hrnb, hrest', ?_⟩
    · exact except_bind_eq_ok.2 ⟨_, havingStored_eq_ok.2 hr', except_bind_eq_ok.2 ⟨_, if_pos hfirst, hy⟩⟩
    · rw [memBytes_succ, hkept]
      exact congrArg (x :: ·) hmem

/-- The bits of a reader just opened are those of its source. -/
theorem readerBits_openedReader {src len : Nat} (hspace : src + len ≤ addressLimit) (hlen : len < addressLimit)
    (m : Memory) : readerBits (openedReader src len) m = bitsOf (memBytes m src len) := by
  have hrlen : (openedReader src len).rlen.toNat = len := toNat_ofNat_of_lt hlen
  rw [readerBits_of_rnb_zero rfl, hrlen]
  exact congrArg bitsOf (memBytes_address hspace m)

theorem refillsFrom_openedReader {v : View} {m : Memory} {src len : Nat} (hspace : src + len ≤ addressLimit)
    (hlen : len < addressLimit) (hread : ReadsAs v m src len) : RefillsFrom v (openedReader src len) m := by
  have hrlen : (openedReader src len).rlen.toNat = len := toNat_ofNat_of_lt hlen
  have hrpos : (openedReader src len).rpos.toNat = 0 := rfl
  intro a hlo hhi
  rw [hrpos] at hlo
  rw [hrlen] at hhi
  obtain hsrc | rfl := toNat_address hspace
  · rw [show (openedReader src len).rsrc.toNat = src from hsrc] at hlo hhi
    exact hread a hlo hhi
  · omega

/-! ### The header -/

theorem leRead_leBytes {n v : Nat} (h : v < 256 ^ n) : leRead (leBytes n v) = v := by
  induction n generalizing v with
  | zero => exact (Nat.lt_one_iff.1 h).symm
  | succ n ih =>
    have hdiv : v / 256 < 256 ^ n := Nat.div_lt_of_lt_mul (by rwa [Nat.pow_succ, Nat.mul_comm] at h)
    rw [leBytes, leRead, ih hdiv, BitVec.toNat_ofNat]
    exact Nat.mod_add_div v 256

/-- Decoding the header's fields inverts the header's layout (30_encoding.md R105). -/
theorem headerOfBytes_eq {size : Nat} (hsize : size < addressLimit) (l : Vector Byte 256) (pad : Byte) :
    headerOfBytes (leBytes 8 size ++ l.toList ++ [pad]) = { size := size, lengths := l, padding := pad } := by
  have hlength : (leBytes 8 size).length = 8 := length_leBytes 8 size
  rw [headerOfBytes, Header.mk.injEq]
  refine ⟨?_, Vector.ext fun k hk => ?_, ?_⟩
  · rw [List.append_assoc, List.take_left' hlength, leRead_leBytes hsize]
  · rw [getElem_tabulate, List.append_assoc, List.getD_append_right _ _ _ _ (by omega), hlength,
      Nat.add_sub_cancel_left, List.getD_append _ _ _ _ (by simpa using hk)]
    simp [List.getD_eq_getElem?_getD, hk]
  · rw [List.getD_append_right _ _ _ _ (by simp [hlength])]
    simp [hlength]

theorem decodeHeader_ok {v : View} {m : Memory} {src len dst cap : Nat} {l : Vector Byte 256} {pad : Byte}
    {size : Nat} (hsrc : src + len ≤ addressLimit) (hdst : dst + cap ≤ addressLimit) (hlen : 269 ≤ len)
    (hread : ReadsAs v m src 269) (hsize : size < addressLimit)
    (hheader : memBytes m src 269 = frameMagic ++ leBytes 8 size ++ l.toList ++ [pad]) :
    decodeHeader v src len dst cap = .ok { size := size, lengths := l, padding := pad } := by
  rw [List.append_assoc, List.append_assoc, memBytes_add m src 4 265] at hheader
  obtain ⟨hmagic, hrest⟩ := List.append_inj hheader (length_memBytes _ _ _)
  rw [decodeHeader_eq hsrc hdst hlen (hread.sub le_rfl (by omega)), hmagic,
    failIf_of_not (not_not.2 rfl), (hread.sub (Nat.le_add_right src 4) (by omega)).memReadN, hrest,
    ← headerOfBytes_eq hsize, List.append_assoc]
  rfl

/-! ### FRAME_DECODE -/

/-- What the body of FRAME_DECODE gives for a frame of `xs` with the lengths `l` and the padding byte `pad`
(44_frame_codec.md R262, R263). -/
structure FrameDecoded (s : State) (dst : Nat) (l : Vector Byte 256) (pad : Byte) (xs : List Byte) (f : Decoded) :
    Prop where
  state : f.state = { s with
    len := l, canon := canonTables l, canonValid := true, reader := Reader.closed, mem := f.state.mem }
  size : f.size = xs.length
  payload : f.payload = bytesFor (payloadBits l xs).length
  padding : f.padding = pad
  symbols : memBytes f.state.mem dst xs.length = xs
  stores : Stores dst (dst + xs.length) s.mem f.state.mem

theorem exists_decodeFrame_eq_ok {v : View} {s : State} {m0 : Memory} {src len dst cap : Nat}
    {l : Vector Byte 256} {pad : Byte} {xs : List Byte} (hl : Assignable l) (hcanon : s.canon = canonTables l)
    (hsrc : src + len ≤ addressLimit) (hlen : 269 ≤ len) (hread : ReadsAs v m0 src len)
    (hpresent : ∀ x ∈ xs, l[x.toNat]? ≠ some 0)
    (hbits : payloadBits l xs <+: bitsOf (memBytes m0 (src + 269) (len - 269)))
    (hcap : xs.length ≤ cap) (hwritable : Writable s.params dst xs.length) :
    ∃ m, decodeFrame v s { size := xs.length, lengths := l, padding := pad } src len dst cap = .ok
        { state := closeReader { s with mem := m }, size := xs.length
          payload := bytesFor (payloadBits l xs).length, padding := pad } ∧
      memBytes m dst xs.length = xs := by
  obtain ⟨rest, hrest⟩ := hbits
  have hspace : src + 269 + (len - 269) ≤ addressLimit := by omega
  have hlt : len - 269 < addressLimit := by omega
  have hopened := readerBits_openedReader hspace hlt m0
  obtain ⟨y, hy, hran, hrnb, hleft, hsymbols⟩ := hl.exists_decodePayload_eq_ok (p := s.params) (dst := dst) (i := 0)
    (m := s.mem) hpresent (hopened.trans hrest.symm)
    (refillsFrom_openedReader hspace hlt (hread.sub (Nat.le_add_right _ _) (by omega)))
    (Nat.zero_lt_succ 7) hwritable
  have hused : (payloadBits l xs).length + (readerBits y.1 m0).length = 8 * y.1.rlen.toNat := by
    rw [hleft, ← List.length_append, hrest, length_bitsOf, length_memBytes, hran.rlen]
    exact congrArg (8 * ·) (toNat_ofNat_of_lt hlt).symm
  have hpos : y.1.rpos.toNat ≤ y.1.rlen.toNat := by
    rw [hran.rlen]
    exact hran.rpos_le (Nat.zero_le _)
  have hrpos := rpos_eq_bytesFor hrnb hpos hused
  have hcodes : ¬(0 < xs.length ∧ s.canon.nsym = 0) := fun ⟨hpos, hzero⟩ => by
    obtain ⟨x, hx⟩ := List.exists_mem_of_length_pos hpos
    exact hl.nsym_ne_zero (getElem?_ne_some_zero_iff.1 (hpresent x hx)) (hcanon ▸ hzero)
  rw [← hcanon] at hy
  refine ⟨y.2, ?_, hsymbols⟩
  rw [← hrpos]
  exact except_bind_eq_ok.2 ⟨(), failIf_of_not hcodes _ _, except_bind_eq_ok.2
    ⟨(), failIf_of_not (Nat.not_lt.2 hcap) _ _, except_bind_eq_ok.2 ⟨y, hy, rfl⟩⟩⟩

/-- What `DecodeReady` asks for is enough, for FRAME_DECODE and, with the size it expects, for ARCH_EXTRACT
(45_archive.md R287). -/
theorem exists_frameDecodeBody_eq_ok {v : View} {s : State} {src len dst cap : Nat} {l : Vector Byte 256}
    {pad : Byte} {xs : List Byte} {expected : Option (Nat × Nat)}
    (hready : DecodeReady s src len dst cap l pad xs) (hread : ReadsAs v s.mem src len)
    (hexpected : checkSize expected xs.length = .ok ()) :
    ∃ f, frameDecodeBody v s src len dst cap expected = .ok f ∧ FrameDecoded s dst l pad xs f := by
  obtain ⟨hsrc, hdst, ⟨hlen, hsize, hheader, ⟨c, hc⟩, hpresent, hbits⟩, hcap, -, hwritable⟩ := hready
  obtain ⟨hl, rfl⟩ := assignCodes_eq_ok_iff.1 hc
  have hdecoded := decodeHeader_ok hsrc hdst hlen (hread.sub le_rfl (by omega)) hsize hheader
  obtain ⟨m, hm, hsymbols⟩ := exists_decodeFrame_eq_ok (s := withCanon (withLengths s l) (canonTables l))
    (dst := dst) (pad := pad) hl rfl hsrc hlen hread hpresent hbits hcap hwritable
  have hbody : frameDecodeBody v s src len dst cap expected = .ok _ :=
    except_bind_eq_ok.2 ⟨_, raisedIn_eq_ok.2 hdecoded, except_bind_eq_ok.2 ⟨(), raisedIn_eq_ok.2 hexpected,
      except_bind_eq_ok.2 ⟨_, raisedIn_eq_ok.2 hc, raisedIn_eq_ok.2 hm⟩⟩⟩
  obtain ⟨-, -, hstores⟩ := frameDecodeBody_stores _ hbody
  exact ⟨_, hbody, rfl, rfl, rfl, rfl, hsymbols, hstores⟩

/-- Settles O44: the body completes, and without race and overlap its state is what stays. -/
theorem frameDecodeRecoversTheSymbols : Obligations.FrameDecodeRecoversTheSymbols := by
  intro s l pad xs c hready hrace hoverlap hc
  obtain ⟨-, rfl⟩ := assignCodes_eq_ok_iff.1 hc
  have ⟨_, hdst, _, hcap, hreadable, _⟩ := hready
  obtain ⟨f, hf, hdec⟩ := exists_frameDecodeBody_eq_ok (expected := none) hready
    (readsAs_source (i := .frameDecode) (by decide) hrace hoverlap le_rfl hreadable) rfl
  have hbody : bodyOf .frameDecode s = .ok
      { state := f.state, r0 := f.size, r1 := f.payload, r2 := f.padding.toNat
        written := ⟨a2 s, a2 s + f.size⟩ } :=
    except_bind_eq_ok.2 ⟨f, hf, rfl⟩
  have hexec := (exec_eq_runCommand .frameDecode s).trans (runCommand_ok rfl hbody)
  rw [completed_eq_finished hoverlap hrace rfl (by rw [hdec.state])] at hexec
  refine ⟨_, hexec, ?_, hdec.symbols, fun a ha => hdec.stores.outside (by omega) ha⟩
  rw [hdec.size, hdec.payload, hdec.padding]
  exact congrArg (finished · _ _ _ 0) hdec.state

/-! ### The round trip -/

/-- The bytes of a frame, wherever memory holds them, are a frame that decodes to its source. -/
theorem FrameAt.holdsFrame {m m' : Memory} {addr : Nat} {l : Vector Byte 256} {xs : List Byte}
    (h : FrameAt m addr l xs) (hl : Assignable l) (hpresent : ∀ x ∈ xs, l[x.toNat]? ≠ some 0)
    (hsize : xs.length < addressLimit)
    (hsame : ∀ k, k < 269 + bytesFor (payloadBits l xs).length → readByte m' (addr + k) = readByte m (addr + k)) :
    HoldsFrame m' addr (269 + bytesFor (payloadBits l xs).length) l (readByte m' (addr + 268)) xs := by
  obtain ⟨hheader, -, hpacked⟩ := h
  refine ⟨Nat.le_add_right _ _, hsize, ?_, ⟨_, assignCodes_eq_ok_iff.2 ⟨hl, rfl⟩⟩, hpresent, ?_⟩
  · rw [memBytes_add m' addr 268 1, memBytes_congr fun k hk => hsame k (by omega), hheader]
    rfl
  · rw [Nat.add_sub_cancel_left, memBytes_congr fun k hk => Nat.add_assoc addr 269 k ▸ hsame (269 + k) (by omega),
      hpacked]
    exact List.prefix_append _ _

/-- Settles O45: the frame FRAME_ENCODE wrote is one that FRAME_DECODE needs. -/
theorem frameRoundTrip : Obligations.FrameRoundTrip := by
  intro s t u l hready hrace hoverlap hexec hsame hraceU hoverlapU hsrcU hlenU hdstU hcapU hreadU hwriteU
  have ⟨hsrc, hdst, _, hlengths, _, hroom, _, _⟩ := hready
  have hl := assignable_of_frameLengths hlengths
  obtain ⟨t', hexec', ht, -, -, hframe, -⟩ := frameEncodeWritesTheFrame s l _ _ hready hrace hoverlap rfl
    (assignCodes_eq_ok_iff.2 ⟨hl, rfl⟩)
  obtain rfl : t' = t := Host.Outcome.next.inj (hexec'.symm.trans hexec)
  generalize hxs : memBytes s.mem (a0 s) (a1 s) = xs at hroom ht hframe
  have hlength : xs.length = a1 s := hxs ▸ length_memBytes _ _ _
  have hres : t'.res[0].toNat = 269 + bytesFor (payloadBits l xs).length := by
    rw [ht]
    exact toNat_ofNat_of_lt (hroom.trans_lt s.latch.a[3].isLt)
  rw [hres] at hsame hlenU
  have hholds := hframe.holdsFrame hl (hxs ▸ hready.present) (hlength ▸ s.latch.a[1].isLt) hsame
  have hreadyU : DecodeReady u (a0 u) (a1 u) (a2 u) (a3 u) l (readByte u.mem (a2 s + 268)) xs :=
    ⟨by rw [hsrcU, hlenU]; omega, hdstU, by rw [hsrcU, hlenU]; exact hholds, hlength ▸ hcapU, hreadU,
      hlength ▸ hwriteU⟩
  obtain ⟨v, hv, hstate, hsymbols, -⟩ := frameDecodeRecoversTheSymbols u l _ xs _ hreadyU hraceU hoverlapU
    (assignCodes_eq_ok_iff.2 ⟨hl, rfl⟩)
  rw [hlength] at hstate hsymbols
  refine ⟨v, hv, ?_, ?_, hsymbols⟩
  · rw [hstate]
    rfl
  · rw [hstate]
    rfl

end Sys2Proof.Machine

namespace Sys2Proof.Machine

/-! PROOFS. The archive multiplexer: reading an archive, with ARCH_OPEN, ARCH_ENTRY and ARCH_FIND
(spec/45_archive.md R284 to R286, R288). -/

/-! ### How a command that stores nothing reads and fails -/

/-- Without a race, a command that stores nothing reads readable bytes as memory holds them. -/
theorem readsAs_of_writeRanges_nil {i : Instr} {s : State} {a n : Nat} (hw : writeRanges i s = [])
    (hrace : RaceFree s) (hread : Readable s.params a n) (k : Nat) : ReadsAs (viewOf i s k) s.mem a n := by
  intro x hlo hhi
  obtain ⟨hadmits, hside⟩ := hread (x - a) (by omega)
  rw [Nat.add_sub_cancel' hlo] at hadmits hside
  refine (if_pos hadmits).trans ?_
  rw [viewByte_viewOf k hw hside, if_neg (hrace ▸ List.not_mem_nil)]

/-- A failure that leaves no byte unspecified keeps what the command had committed, with its closings. -/
theorem exec_eq_failedWith_committed {i : Instr} {s u : State} {c : ErrCode} {info : Nat}
    (hc : contextPresent i s = true) (hranges : failureRanges i s = []) (hinfo : info < addressLimit)
    (hmem : u.mem = s.mem)
    (hbody : bodyOf i s = .error { error := { code := c, info := info }, state := u }) :
    exec i s = .next (failedWith (failureEffects i u) c.byte info) := by
  rw [exec_eq_runCommand, runCommand_error hc hbody, ← deliver_eq_failedWith _ c hinfo]
  simp [State.raise, hranges, havocAll, ← hmem, ← failureEffects_mem i u]

/-! ### ARCH_OPEN -/

/-- ARCH_OPEN fails with the error of its checks, and has closed the reading context. -/
theorem exec_archOpen_error {s : State} {c : ErrCode} {info : Nat} (hinfo : info < addressLimit)
    (h : openCount s = .error { code := c, info := info }) :
    exec .archOpen s = .next (failedWith { s with reading := Reading.closed } c.byte info) :=
  exec_eq_failedWith_committed (u := closeReading s) rfl rfl hinfo rfl
    (except_bind_eq_error.2 (.inl (raisedIn_eq_error.2 ⟨_, h, rfl⟩)))

theorem exec_archOpen_ok {s : State} {n : Nat} (h : openCount s = .ok n) :
    exec .archOpen s = .next (finished
      { s with reading := { archR := true, xbase := s.latch.a[0], xlen := s.latch.a[1]
                            xn := BitVec.ofNat 32 n } } n 0 0 0) := by
  have hbody : bodyOf .archOpen s = .ok _ := except_bind_eq_ok.2 ⟨n, raisedIn_eq_ok.2 h, rfl⟩
  rw [exec_eq_finished rfl rfl hbody rfl]
  simp [a0, a1, closeReading]

section
variable {s : State} (hrange : a0 s + a1 s ≤ addressLimit)
include hrange

theorem openCount_truncated (hlen : a1 s < 9) :
    openCount s = .error { code := .truncatedHeader, info := a1 s } := by
  rw [openCount, checkRange_of_le hrange, failIf_of hlen]
  rfl

/-- The header of an archive long enough for it is read and checked: magic, version, count. -/
theorem openCount_eq (hlen : 9 ≤ a1 s) (hrace : RaceFree s) (hread : Readable s.params (a0 s) 9) :
    openCount s = (do
      failIf (decide (memBytes s.mem (a0 s) 4 ≠ [0x48, 0x55, 0x46, 0x46])) .badMagic 0
      failIf (decide (readByte s.mem (a0 s + 4) ≠ 1)) .badVersion (readByte s.mem (a0 s + 4)).toNat
      failIf (decide (a1 s < 9 + leRead (memBytes s.mem (a0 s + 5) 4) * (s.params.pathLen + 24)))
        .truncatedTable (leRead (memBytes s.mem (a0 s + 5) 4))
      .ok (leRead (memBytes s.mem (a0 s + 5) 4))) := by
  have hreads := readsAs_of_writeRanges_nil (i := .archOpen) rfl hrace hread 0
  have hmagic := (hreads.sub le_rfl (by omega : a0 s + 4 ≤ a0 s + 9)).memReadN
  have hversion := hreads (a0 s + 4) (by omega) (by omega)
  have hcount := (hreads.sub (Nat.le_add_right _ 5) (by omega : a0 s + 5 + 4 ≤ a0 s + 9)).memReadN
  simp only [openCount]
  rw [checkRange_of_le hrange, failIf_of_not (Nat.not_lt.2 hlen), hmagic, hversion, hcount]
  rfl

end

/-- The magic and the version are the first five bytes (30_encoding.md R107). -/
theorem archHeader_parts {m : Memory} {a : Nat} (h : memBytes m a 5 = [0x48, 0x55, 0x46, 0x46, 0x01]) :
    memBytes m a 4 = [0x48, 0x55, 0x46, 0x46] ∧ readByte m (a + 4) = 1 := by
  have hparts : memBytes m a 4 ++ memBytes m (a + 4) 1 = [0x48, 0x55, 0x46, 0x46] ++ [0x01] :=
    (memBytes_add m a 4 1).symm.trans h
  obtain ⟨hmagic, hversion⟩ := List.append_inj hparts (length_memBytes m a 4)
  exact ⟨hmagic, List.head_eq_of_cons_eq hversion⟩

/-- Settles O50: each check of the header passes, and the count is read. -/
theorem archOpenCompletes : Obligations.ArchOpenCompletes := by
  intro s n hrange hrace hread hheader hn hfits
  subst hn
  obtain ⟨hmagic, hversion⟩ := archHeader_parts hheader
  refine exec_archOpen_ok ?_
  rw [openCount_eq hrange (by omega) hrace hread, failIf_of_not (not_not.2 hmagic),
    failIf_of_not (not_not.2 hversion), failIf_of_not (Nat.not_lt.2 hfits)]
  rfl

/-- Settles O51: the checks in their order, each after the reading context is closed. -/
theorem archOpenRejectsBadArchives : Obligations.ArchOpenRejectsBadArchives := by
  intro s _ hrange
  refine ⟨fun hlen => exec_archOpen_error s.latch.a[1].isLt (openCount_truncated hrange hlen),
    fun hlen hrace hread => ?_⟩
  have hopen := openCount_eq hrange hlen hrace hread
  refine ⟨fun hmagic => ?_, fun hmagic hversion => ?_, fun hheader hlong => ?_⟩
  · exact exec_archOpen_error (c := .badMagic) (info := 0) (by decide) (by rw [hopen, failIf_of hmagic]; rfl)
  · have hinfo : (readByte s.mem (a0 s + 4)).toNat < addressLimit := (BitVec.isLt _).trans (by decide)
    exact exec_archOpen_error hinfo (by rw [hopen, failIf_of_not (not_not.2 hmagic), failIf_of hversion]; rfl)
  · obtain ⟨hmagic, hversion⟩ := archHeader_parts hheader
    have hinfo : leRead (memBytes s.mem (a0 s + 5) 4) < addressLimit :=
      (leRead_lt _).trans (by rw [length_memBytes]; decide)
    exact exec_archOpen_error hinfo (by
      rw [hopen, failIf_of_not (not_not.2 hmagic), failIf_of_not (not_not.2 hversion), failIf_of hlong]
      rfl)

/-! ### ARCH_ENTRY -/

/-- Settles O52: the index is checked first; the record is read whole and cut into its fields. -/
theorem archEntryReturnsTheRecord : Obligations.ArchEntryReturnsTheRecord := by
  intro s a harch ha
  refine ⟨fun hindex hrace hread => ?_, fun hindex => ?_⟩
  · have hreads := (readsAs_of_writeRanges_nil (i := .archEntry) rfl hrace hread 0).memReadN
    have hbody : bodyOf .archEntry s = .ok _ :=
      except_bind_eq_ok.2 ⟨(), raisedIn_eq_ok.2 (failIf_of_not (Nat.not_le.2 hindex) _ _),
        except_bind_eq_ok.2 ⟨_, raisedIn_eq_ok.2 (ha ▸ hreads), rfl⟩⟩
    rw [exec_eq_finished (i := .archEntry) harch rfl hbody rfl]
    simp [drop_memBytes, take_memBytes, storedPath, ← ha, Nat.add_assoc]
  · have hbody : bodyOf .archEntry s = .error { error := { code := .badIndex, info := a0 s }, state := s } :=
      except_bind_eq_error.2 (.inl (raisedIn_eq_error.2 ⟨_, failIf_of hindex _ _, rfl⟩))
    exact exec_eq_failedWith (i := .archEntry) harch rfl rfl s.latch.a[0].isLt hbody

/-! ### ARCH_FIND -/

/-- The stored path of entry `k` of the archive open for reading (45_archive.md R288). -/
def pathOfEntry (s : State) (k : Nat) : List Byte :=
  storedPath (memBytes s.mem (entryAddr s k) s.params.pathLen)

section
variable {v : View} {s : State} {q : List Byte} {left i : Nat}

theorem findEntry_succ (hread : ReadsAs v s.mem (entryAddr s i) s.params.pathLen) :
    findEntry v s q (left + 1) i = if pathOfEntry s i = q then .ok i else findEntry v s q left (i + 1) := by
  rw [findEntry, hread.memReadN]
  rfl

/-- The scan stops at the first entry whose path is the query. -/
theorem findEntry_first {k : Nat}
    (hread : ∀ j, i ≤ j → j < i + left → ReadsAs v s.mem (entryAddr s j) s.params.pathLen)
    (hik : i ≤ k) (hk : k < i + left) (hmatch : pathOfEntry s k = q)
    (hbefore : ∀ j, i ≤ j → j < k → pathOfEntry s j ≠ q) : findEntry v s q left i = .ok k := by
  induction left generalizing i with
  | zero => omega
  | succ left ih =>
    rw [findEntry_succ (hread i le_rfl (by omega))]
    obtain rfl | hlt := Nat.eq_or_lt_of_le hik
    · exact if_pos hmatch
    · rw [if_neg (hbefore i le_rfl hlt)]
      exact ih (fun j hj hjlt => hread j (by omega) (by omega)) hlt (by omega)
        fun j hj hjk => hbefore j (by omega) hjk

theorem findEntry_none
    (hread : ∀ j, i ≤ j → j < i + left → ReadsAs v s.mem (entryAddr s j) s.params.pathLen)
    (hmiss : ∀ j, i ≤ j → j < i + left → pathOfEntry s j ≠ q) :
    findEntry v s q left i = .error { code := .notFound, info := 0 } := by
  induction left generalizing i with
  | zero => rfl
  | succ left ih =>
    rw [findEntry_succ (hread i le_rfl (by omega)), if_neg (hmiss i le_rfl (by omega))]
    exact ih (fun j hj hjlt => hread j (by omega) (by omega)) fun j hj hjlt => hmiss j (by omega) (by omega)

end

/-- The path fields of a readable table are read as memory holds them. -/
theorem readsAs_pathField {v : View} {s : State}
    (htable : ReadsAs v s.mem (s.reading.xbase.toNat + 9) (s.reading.xn.toNat * s.params.entryLen)) {k : Nat}
    (hk : k < s.reading.xn.toNat) : ReadsAs v s.mem (entryAddr s k) s.params.pathLen := by
  have hentry : (k + 1) * s.params.entryLen ≤ s.reading.xn.toNat * s.params.entryLen :=
    Nat.mul_le_mul_right _ hk
  have hlen : s.params.entryLen = s.params.pathLen + 24 := rfl
  rw [Nat.succ_mul] at hentry
  exact htable.sub (Nat.le_add_right _ _) (by simp only [entryAddr, Config.archHdr]; omega)

/-- A readable query that can be a path is looked for among the entries. -/
theorem findPath_eq {s : State} (hrange : a0 s + a1 s ≤ addressLimit) (hlen : a1 s ≤ s.params.pathLen)
    (hrace : RaceFree s) (hread : Readable s.params (a0 s) (a1 s)) :
    findPath s = findEntry (viewOf .archFind s 1) s (memBytes s.mem (a0 s) (a1 s)) s.reading.xn.toNat 0 := by
  rw [findPath, checkRange_of_le hrange, failIf_of_not (Nat.not_lt.2 hlen),
    (readsAs_of_writeRanges_nil rfl hrace hread 0).memReadN]
  rfl

theorem findPath_tooLong {s : State} (hrange : a0 s + a1 s ≤ addressLimit) (hlen : s.params.pathLen < a1 s) :
    findPath s = .error { code := .notFound, info := 0 } := by
  rw [findPath, checkRange_of_le hrange, failIf_of hlen]
  rfl

theorem exec_archFind_ok {s : State} {k : Nat} (harch : s.reading.archR = true) (h : findPath s = .ok k) :
    exec .archFind s = .next (finished s k 0 0 0) := by
  have hbody : bodyOf .archFind s = .ok { state := s, r0 := k } :=
    except_bind_eq_ok.2 ⟨k, raisedIn_eq_ok.2 h, rfl⟩
  exact exec_eq_finished (i := .archFind) harch rfl hbody rfl

theorem exec_archFind_notFound {s : State} (harch : s.reading.archR = true)
    (h : findPath s = .error { code := .notFound, info := 0 }) :
    exec .archFind s = .next (failedWith s 0x31 0) := by
  have hbody : bodyOf .archFind s = .error { error := { code := .notFound, info := 0 }, state := s } :=
    except_bind_eq_error.2 (.inl (raisedIn_eq_error.2 ⟨_, h, rfl⟩))
  exact exec_eq_failedWith (i := .archFind) harch rfl rfl (by decide) hbody

/-- Settles O53: the scan stops at the first match, and without one it passes every entry. -/
theorem archFindReturnsTheFirstMatch : Obligations.ArchFindReturnsTheFirstMatch := by
  intro s path q harch hrange hq hpath
  refine ⟨fun hlen => exec_archFind_notFound harch (findPath_tooLong hrange hlen),
    fun hlen hrace hread htable => ?_⟩
  obtain rfl : path = pathOfEntry s := funext hpath
  have hfields : ∀ j, 0 ≤ j → j < 0 + s.reading.xn.toNat →
      ReadsAs (viewOf .archFind s 1) s.mem (entryAddr s j) s.params.pathLen := fun j _ hj =>
    readsAs_pathField (readsAs_of_writeRanges_nil rfl hrace htable 1) (by omega)
  have hfind := findPath_eq hrange hlen hrace hread
  rw [← hq] at hfind
  refine ⟨fun k hk hmatch hbefore => exec_archFind_ok harch (hfind.trans ?_),
    fun hmiss => exec_archFind_notFound harch (hfind.trans ?_)⟩
  · exact findEntry_first hfields k.zero_le (by omega) hmatch fun j _ hj => hbefore j hj
  · exact findEntry_none hfields fun j _ hj => hmiss j (by omega)

end Sys2Proof.Machine

namespace Sys2Proof.Machine

/-! PROOFS. The archive multiplexer: creating an archive, with ARCH_BEGIN, ARCH_ADD and ARCH_END
(spec/45_archive.md R281 to R283, R290; 30_encoding.md R107, R108). -/

/-! ### How a command that stores completes and fails -/

/-- Without overlap and race, what a command leaves is what stays. -/
theorem exec_eq_finished_of_safe {i : Instr} {s : State} {d : Done} (hc : contextPresent i s = true)
    (hoverlap : OverlapFree i s) (hrace : RaceFree s) (hbody : bodyOf i s = .ok d)
    (hdraws : d.state.draws = s.draws) :
    exec i s = .next (finished d.state d.r0 d.r1 d.r2 d.r3) := by
  rw [exec_eq_runCommand, runCommand_ok hc hbody, completed_eq_finished hoverlap hrace rfl hdraws]

/-- ERR is set by a failure only (60_exceptions.md R325). -/
theorem exists_raise_of_err {i : Instr} {s t : State} (hc : contextPresent i s = true) (herr : s.err = false)
    (h : exec i s = .next t) (ht : t.err = true) : ∃ r, bodyOf i s = .error r ∧ t = s.raise i r := by
  rw [exec_eq_runCommand] at h
  obtain ⟨hnone, -⟩ | ⟨-, d, hd, rfl⟩ | ⟨-, r, hr, rfl⟩ := runCommand_cases h
  · exact absurd (hc.symm.trans hnone) Bool.noConfusion
  · have hcommits := bodyOf_commits i s
    rw [hd] at hcommits
    obtain ⟨hcommits⟩ := hcommits
    have hreport : errorReport d.state = errorReport s := hcommits.keeps fun _ _ hab => hab.errorReport_eq
    exact absurd (ht.symm.trans ((congrArg Prod.fst hreport).trans herr)) Bool.noConfusion
  · exact ⟨r, hr, rfl⟩

/-- A step that commits nothing fails in the state it is taken from. -/
theorem failsOnly_raisedIn {α : Type} {P : State → Prop} {s : State} (hs : P s) (x : Except CmdError α) :
    FailsOnly (fun r => P r.state) (raisedIn s x) := fun r hr => by
  obtain ⟨e, -, rfl⟩ := raisedIn_eq_error.1 hr
  exact hs

theorem Leaves.failsOnly {α : Type} {P : State → Prop} {st : α → State} {x : Except Raised α}
    (h : Leaves P st x) : FailsOnly (fun r => P r.state) x := by
  cases h with
  | ok _ => exact failsOnly_ok _
  | error hr => exact failsOnly_error hr

/-! ### ARCH_BEGIN -/

/-- Whatever ARCH_BEGIN fails with, it has abandoned the creation in progress (45_archive.md R281). -/
theorem archBegin_failsClosed (s : State) : FailsOnly (·.state.create = Create.zero) (archBegin s) :=
  (failsOnly_raisedIn (P := (·.create = Create.zero)) rfl _).bind fun _ => failsOnly_ok _

theorem exec_archBegin_error {s : State} {c : ErrCode} {info : Nat} (hinfo : info < addressLimit)
    (h : beginWrites s = .error { code := c, info := info }) :
    ∃ t, exec .archBegin s = .next t ∧ t.err = true ∧ t.errcode = c.byte ∧ t.errinfo = BitVec.ofNat 64 info := by
  have hbody : bodyOf .archBegin s = .error { error := { code := c, info := info }, state := abandonCreate s } :=
    except_bind_eq_error.2 (.inl (raisedIn_eq_error.2 ⟨_, h, rfl⟩))
  obtain ⟨m, hm⟩ := exec_eq_failedWith_mem rfl hinfo hbody
  exact ⟨_, hm, rfl, rfl, rfl⟩

section
variable {s : State} (hrange : a0 s + a1 s ≤ addressLimit)
include hrange

theorem beginWrites_badArg (hslots : s.params.maxMembers < a2 s) :
    beginWrites s = .error { code := .badArg, info := 2 } := by
  rw [beginWrites, checkRange_of_le hrange, checkSlots, failIf_of hslots]
  rfl

/-- After its range and slots ARCH_BEGIN checks its room, and then writes (45_archive.md R281). -/
theorem beginWrites_eq (hslots : a2 s ≤ s.params.maxMembers) : beginWrites s = (do
    failIf (decide (a1 s < 9 + a2 s * (s.params.pathLen + 24))) .dstFull (9 + a2 s * (s.params.pathLen + 24))
    memWriteN s.params s.mem (a0 s) (beginBytes s.params (a2 s))) := by
  rw [beginWrites, checkRange_of_le hrange, checkSlots, failIf_of_not (Nat.not_lt.2 hslots)]
  rfl

end

/-- The bytes of the largest empty archive fit ERRINFO. -/
theorem beginSize_lt {p : Config.Params} {slots : Nat} (hp : p.Legal) (hslots : slots ≤ p.maxMembers) :
    9 + slots * (p.pathLen + 24) < addressLimit := by
  obtain ⟨⟨-, hpath⟩, ⟨-, hmembers⟩, -⟩ := hp
  have hle : slots * (p.pathLen + 24) ≤ 65535 * (65535 + 24) :=
    Nat.mul_le_mul (hslots.trans hmembers) (Nat.add_le_add_right hpath 24)
  exact (Nat.add_le_add_left hle 9).trans_lt (by decide)

/-- What a writable destination with room holds after ARCH_BEGIN (45_archive.md R281). -/
theorem exists_beginWrites_eq_ok {s : State} (hrange : a0 s + a1 s ≤ addressLimit)
    (hslots : a2 s ≤ s.params.maxMembers) (hroom : 9 + a2 s * (s.params.pathLen + 24) ≤ a1 s)
    (hwritable : Writable s.params (a0 s) (9 + a2 s * (s.params.pathLen + 24))) :
    ∃ m, beginWrites s = .ok m ∧
      memBytes m (a0 s) (9 + a2 s * (s.params.pathLen + 24)) = beginBytes s.params (a2 s) := by
  have hlength : (beginBytes s.params (a2 s)).length = 9 + a2 s * (s.params.pathLen + 24) :=
    length_beginBytes s.params (a2 s)
  obtain ⟨m, hm⟩ := memWriteN_ok (m := s.mem) (hlength ▸ hwritable)
  refine ⟨m, ?_, hlength ▸ memBytes_memWriteN hm⟩
  rw [beginWrites_eq hrange hslots, failIf_of_not (Nat.not_lt.2 hroom)]
  exact hm

/-- Settles O46: the checks in their order, and the writes after them; the creation in progress is abandoned
before any. -/
theorem archBeginOpensTheArchive : Obligations.ArchBeginOpensTheArchive := by
  intro s size hlegal hsize
  subst hsize
  refine ⟨fun hrange hslots hroom hrace hwritable => ?_, fun herr t h ht => ?_, fun hrange hslots => ?_,
    fun hrange hslots hroom => ?_⟩
  · obtain ⟨m, hm, hbytes⟩ := exists_beginWrites_eq_ok hrange hslots hroom hwritable
    obtain ⟨-, -, hstores⟩ := beginWrites_stores s m hm
    have hbody : bodyOf .archBegin s = .ok _ := except_bind_eq_ok.2 ⟨m, raisedIn_eq_ok.2 hm, rfl⟩
    refine ⟨_, exec_eq_finished_of_safe rfl rfl hrace hbody rfl, ?_, hbytes,
      fun a ha => hstores.outside (by simp only [Config.archHdr, Config.Params.entryLen]; omega) ha⟩
    simp [finished, abandonCreate, Create.zero, a0, a1, Config.archHdr, Config.Params.entryLen]
  · obtain ⟨r, hr, rfl⟩ := exists_raise_of_err rfl herr h ht
    exact archBegin_failsClosed s r hr
  · exact exec_archBegin_error (by decide) (beginWrites_badArg hrange hslots)
  · have hsize := beginSize_lt hlegal hslots
    obtain ⟨t, ht, herr, hcode, hinfo⟩ := exec_archBegin_error (c := .dstFull) hsize (by
      rw [beginWrites_eq hrange hslots, failIf_of hroom]
      rfl)
    exact ⟨t, ht, herr, hcode, hinfo ▸ toNat_ofNat_of_lt hsize⟩

/-! ### A failed ARCH_ADD -/

/-- ARCH_ADD changes the creation context only when it has succeeded. -/
theorem archAdd_failsKeepingCreate (s : State) : FailsOnly (·.state.create = s.create) (archAdd s) :=
  (failsOnly_raisedIn (P := (·.create = s.create)) rfl _).bind fun _ =>
    (frameEncodeBody_create _ s _ _ _ _).failsOnly.bind fun _ => failsOnly_ok _

/-- AFAIL counts up to 2^32 - 1 (45_archive.md R282). -/
theorem bumpFail_eq_min (n : BitVec 32) : bumpFail n = BitVec.ofNat 32 (min (n.toNat + 1) (2 ^ 32 - 1)) := by
  unfold bumpFail
  split
  next h => rw [h]; rfl
  next h =>
    have hlt : n.toNat + 1 ≤ 2 ^ 32 - 1 := by
      have hne : n.toNat ≠ 2 ^ 32 - 1 := fun hn => h (BitVec.eq_of_toNat_eq hn)
      have := n.isLt
      omega
    rw [Nat.min_eq_left hlt, BitVec.ofNat_add, BitVec.ofNat_toNat, BitVec.setWidth_eq]
    rfl

/-- Settles O48: a failure notes itself in the creation context, and the write range begins where the archive so
far ends. -/
theorem failedAddIsIsolated : Obligations.FailedAddIsIsolated := by
  intro s t herr hm harch h ht
  obtain ⟨r, hr, rfl⟩ := exists_raise_of_err (i := .archAdd) harch herr h ht
  refine ⟨?_, fun k hk => readByte_raise hm ?_⟩
  · show { r.state.create with partialAdd := true, afail := bumpFail r.state.create.afail } = _
    rw [archAdd_failsKeepingCreate s r hr, bumpFail_eq_min]
  · refine Bool.eq_false_iff.2 fun hin => ?_
    obtain ⟨q, hq, hlo, -⟩ := inRanges_eq_true.1 hin
    obtain rfl := List.mem_singleton.1 hq
    dsimp only at hlo
    omega

/-! ### ARCH_ADD -/

/-- The path ARCH_ADD reads is the one in memory, if it is legal and a slot is free (45_archive.md R282). -/
theorem addPath_ok {s : State} (hsrc : a0 s + a1 s ≤ addressLimit) (hpath : a2 s + a3 s ≤ addressLimit)
    (hpos : 1 ≤ a3 s) (hle : a3 s ≤ s.params.pathLen - 1) (hslot : s.create.an ≠ s.create.aslots)
    (hread : ReadsAs (viewOf .archAdd s 0) s.mem (a2 s) (a3 s)) (hzero : 0 ∉ memBytes s.mem (a2 s) (a3 s)) :
    addPath s = .ok (memBytes s.mem (a2 s) (a3 s)) := by
  have hany : failIf ((memBytes s.mem (a2 s) (a3 s)).any fun b => b == 0) .badPath (a3 s) = .ok () :=
    failIf_eq_ok.2 (List.any_eq_false.2 fun b hb hb0 => hzero (eq_of_beq hb0 ▸ hb))
  rw [addPath, checkRange_of_le hsrc, checkRange_of_le hpath, checkPathLen, failIf_of_not (by omega),
    hread.memReadN, failIf_of_not hslot]
  simp only [bind, Except.bind, hany]

/-- The new record follows those written before (45_archive.md R282). -/
theorem addMember_eq {c : Create} (hram : c.ram.length = c.an.toNat) (p : Config.Params) (q : List Byte)
    (orig length : Nat) : addMember p c q orig length = { c with
      an := c.an + 1, aend := c.aend + BitVec.ofNat 64 length
      ram := c.ram ++ [{ path := pathField p q, orig := BitVec.ofNat 64 orig
                         comp := BitVec.ofNat 64 length, off := c.aend }] } := by
  rw [addMember, ← hram, setEntry_length]

/-- Without race and overlap ARCH_ADD reads its readable arguments as memory holds them. -/
theorem readsAs_archAdd {s : State} (hrace : RaceFree s) (hoverlap : OverlapFree .archAdd s) {a n : Nat}
    (hr : rangeOf a n ∈ readRanges .archAdd s) (hread : Readable s.params a n) (k : Nat) :
    ReadsAs (viewOf .archAdd s k) s.mem a n :=
  readsAs_viewOf hrace hoverlap hr hread (fun _ hlo hhi hspace => inRange_rangeOf.2 ⟨hlo, hhi, hspace⟩) k

/-- Settles O47: the path and the source are read as memory holds them, the frame is FRAME_ENCODE's, and its
record is the next one. -/
theorem archAddCompletes : Obligations.ArchAddCompletes := by
  intro s l q xs c flen _ hsound harch hslot hrace hoverlap hpath hpos hle hreadPath hq hzero hready hxs hc hflen
  obtain ⟨-, rfl⟩ := assignCodes_eq_ok_iff.1 hc
  obtain ⟨-, -, hram, -⟩ := hsound.2.1 harch
  have ⟨hsrc, hdst, _, _, _, hroom, hreadable, _⟩ := hready
  have hadd := addPath_ok hsrc hpath hpos hle hslot
    (readsAs_archAdd hrace hoverlap (List.mem_cons_self ..) hreadPath 0) (hq ▸ hzero)
  obtain ⟨f, hf, henc⟩ := exists_frameEncodeBody_eq_ok hready s.latch.a[1].isLt
    (readsAs_archAdd hrace hoverlap (List.mem_cons_of_mem _ (List.mem_singleton_self _)) hreadable 1)
  rw [← hq] at hadd
  rw [← hxs] at henc hroom
  rw [← hflen] at hroom
  have hlength : f.length = flen := henc.length.trans hflen.symm
  have hcreate : f.state.create = s.create := by rw [henc.state]; rfl
  have hbody : bodyOf .archAdd s = .ok _ :=
    except_bind_eq_ok.2 ⟨q, raisedIn_eq_ok.2 hadd, except_bind_eq_ok.2 ⟨f, hf, rfl⟩⟩
  have hdraws : f.state.draws = s.draws := by rw [henc.state]; rfl
  refine ⟨_, exec_eq_finished_of_safe harch hoverlap hrace hbody hdraws, ?_, henc.empty, henc.built, henc.frame,
    fun a ha => (hlength ▸ henc.stores).outside (by omega) ha⟩
  refine (congrArg (fun u : State => finished
    { u with create := addMember s.params f.state.create q (a1 s) f.length } _ _ f.length 0) henc.state).trans ?_
  have horig : BitVec.ofNat 64 (a1 s) = s.latch.a[1] := by simp [a1]
  rw [hcreate, hlength, addMember_eq hram, horig]
  rfl

/-! ### ARCH_END -/

/-- A part in the middle of a run of bytes in memory stands behind what comes before it. -/
theorem memBytes_middle {m : Memory} {a n : Nat} {xs ys zs : List Byte} (h : memBytes m a n = xs ++ (ys ++ zs)) :
    memBytes m (a + xs.length) ys.length = ys := by
  have hlength := congrArg List.length h
  simp only [length_memBytes, List.length_append] at hlength
  rw [hlength, memBytes_add, memBytes_add] at h
  obtain ⟨-, hrest⟩ := List.append_inj h (length_memBytes _ _ _)
  exact (List.append_inj hrest (length_memBytes _ _ _)).1

/-- The table is the records below the `k`-th, that record, and the others. -/
theorem exists_tableBytes_eq (p : Config.Params) (ram : List Entry) {n k : Nat} (hk : k < n) :
    ∃ rest, tableBytes p ram n = tableBytes p ram k ++ (entryBytes (getEntry p ram k) ++ rest) := by
  obtain ⟨j, rfl⟩ := Nat.exists_eq_add_of_lt hk
  rw [tableBytes, Nat.add_assoc, List.range_add, List.flatMap_append, List.range_succ_eq_map]
  exact ⟨_, rfl⟩

/-- Record `k` of a table in memory stands in slot `k` (30_encoding.md R108). -/
theorem memBytes_record {p : Config.Params} {ram : List Entry} {m : Memory} {a n k : Nat} {e : Entry}
    (hpaths : ∀ e ∈ ram, e.path.length = p.pathLen) (htable : memBytes m a (n * p.entryLen) = tableBytes p ram n)
    (hn : ram.length = n) (hk : ram[k]? = some e) :
    memBytes m (a + k * p.entryLen) p.entryLen = entryBytes e := by
  obtain ⟨hlt, -⟩ := List.getElem?_eq_some_iff.1 hk
  obtain ⟨rest, hrest⟩ := exists_tableBytes_eq p ram (hn ▸ hlt)
  have hrecord := memBytes_middle (htable.trans hrest)
  rw [length_tableBytes hpaths, length_entryBytes_getEntry hpaths] at hrecord
  rw [hrecord, getEntry, List.getD_eq_getElem?_getD, hk, Option.getD_some]

/-- What a writable archive in creation holds after ARCH_END: the count, and the table behind the header
(45_archive.md R283). -/
theorem exists_archEnd_eq_ok {s : State} (hpaths : ∀ e ∈ s.create.ram, e.path.length = s.params.pathLen)
    (hwritable : Writable s.params s.create.abase.toNat (9 + s.create.an.toNat * s.params.entryLen)) :
    ∃ d, archEnd s = .ok d ∧
      finished d.state d.r0 d.r1 d.r2 d.r3 = finished (closeCreate { s with mem := d.state.mem })
        s.create.aend.toNat s.create.an.toNat s.create.afail.toNat 0 ∧
      memBytes d.state.mem (s.create.abase.toNat + 5) 4 = leBytes 4 s.create.an.toNat ∧
      memBytes d.state.mem (s.create.abase.toNat + 9) (s.create.an.toNat * s.params.entryLen) =
        tableBytes s.params s.create.ram s.create.an.toNat := by
  have hlength := length_tableBytes hpaths s.create.an.toNat
  obtain ⟨m1, hm1⟩ := memWriteN_ok (m := s.mem) (a := s.create.abase.toNat + 5)
    (bs := leBytes 4 s.create.an.toNat) (hwritable.sub (by omega) (by rw [length_leBytes]; omega))
  obtain ⟨m2, hm2⟩ := memWriteN_ok (m := m1) (a := s.create.abase.toNat + 9)
    (bs := tableBytes s.params s.create.ram s.create.an.toNat) (hwritable.sub (by omega) (by rw [hlength]; omega))
  have hcount := memBytes_memWriteN hm1
  have htable := memBytes_memWriteN hm2
  rw [length_leBytes] at hcount
  rw [hlength] at htable
  refine ⟨_, except_bind_eq_ok.2 ⟨m1, raisedIn_eq_ok.2 hm1, except_bind_eq_ok.2 ⟨m2, raisedIn_eq_ok.2 hm2, rfl⟩⟩,
    rfl, ?_, htable⟩
  rw [← hcount]
  exact memBytes_of_stores (memWriteN_stores _ _ _ _ _ hm2) le_rfl

/-- Settles O49: the count and the table are written one after the other, between the header and the members. -/
theorem archEndWritesTheTable : Obligations.ArchEndWritesTheTable := by
  intro s harch _ hsound hrace hwritable
  obtain ⟨han, -, hram, hpaths, htable, haend, hspace⟩ := hsound.2.1 harch
  have hrecords : s.create.an.toNat * s.params.entryLen ≤ s.create.aslots.toNat * s.params.entryLen :=
    Nat.mul_le_mul_right _ han
  obtain ⟨d, hd, hstate, hcount, hstored⟩ := exists_archEnd_eq_ok hpaths hwritable
  obtain ⟨hstores, hwritten⟩ := archEnd_stores hpaths d hd
  have hdraws : d.state.draws = s.draws := Nat.add_right_cancel (congrArg State.draws hstate)
  refine ⟨_, exec_eq_finished_of_safe harch rfl hrace hd hdraws, hstate, hcount,
    fun k e hk => memBytes_record hpaths hstored hram hk, fun a ha => ?_⟩
  have hhdr : Config.archHdr = 9 := rfl
  rw [hwritten] at hstores
  dsimp only at hstores
  exact (hstores.mono (.inr ⟨le_rfl, by omega⟩)).outside (n := 4 + s.create.an.toNat * s.params.entryLen)
    (by omega) ha

end Sys2Proof.Machine

namespace Sys2Proof.Machine

/-! PROOFS. The archive multiplexer: ARCH_EXTRACT (spec/45_archive.md R287; 44_frame_codec.md R262). -/

/-- The sizes and the offset of a readable entry whose member lies in the archive (45_archive.md R287). -/
theorem extractEntry_ok {s : State} {a orig comp off : Nat} (hrange : a1 s + a2 s ≤ addressLimit)
    (hindex : a0 s < s.reading.xn.toNat) (ha : entryAddr s (a0 s) + s.params.pathLen = a)
    (hread : ReadsAs (viewOf .archExtract s 0) s.mem a 24) (horig : leRead (memBytes s.mem a 8) = orig)
    (hcomp : leRead (memBytes s.mem (a + 8) 8) = comp) (hoff : leRead (memBytes s.mem (a + 16) 8) = off)
    (hfits : off + comp ≤ s.reading.xlen.toNat) : extractEntry s = .ok (orig, comp, off) := by
  rw [extractEntry_eq hrange hindex ha hread, horig, hcomp, hoff, failIf_of_not (Nat.not_lt.2 hfits)]
  rfl

/-- A readable member inside the archive is read as memory holds it. -/
theorem readsAs_member {s : State} {off comp : Nat} (hrace : RaceFree s) (hoverlap : OverlapFree .archExtract s)
    (hfits : off + comp ≤ s.reading.xlen.toNat) (hread : Readable s.params (s.reading.xbase.toNat + off) comp)
    (k : Nat) : ReadsAs (viewOf .archExtract s k) s.mem (s.reading.xbase.toNat + off) comp :=
  readsAs_viewOf hrace hoverlap (List.mem_singleton_self _) hread
    (fun _ hlo hhi hspace => inRange_rangeOf.2 ⟨by omega, by omega, hspace⟩) k

/-- Settles O54: the entry gives the member's place and the size its frame must have, and the rest is
FRAME_DECODE's body. -/
theorem archExtractWritesTheMember : Obligations.ArchExtractWritesTheMember := by
  intro s a off comp l pad xs c harch hindex ha horig hcomp hoff hfits hreadEntry hrange hrace hoverlap hsound
    hready hc
  obtain ⟨-, rfl⟩ := assignCodes_eq_ok_iff.1 hc
  have ⟨_, _, _, hcap, hreadable, _⟩ := hready
  have hentry := extractEntry_ok hrange hindex ha.symm
    (readsAs_entry hrace hoverlap harch hsound hindex ha.symm hreadEntry 0) horig hcomp hoff hfits
  obtain ⟨f, hf, hdec⟩ := exists_frameDecodeBody_eq_ok (expected := some (xs.length, a0 s)) hready
    (readsAs_member hrace hoverlap hfits hreadable 1) (failIf_of_not (not_not.2 rfl) _ _)
  have hbody : bodyOf .archExtract s =
      .ok { state := f.state, r0 := f.size, written := ⟨a1 s, a1 s + f.size⟩ } :=
    except_bind_eq_ok.2 ⟨_, raisedIn_eq_ok.2 hentry, except_bind_eq_ok.2 ⟨f, hf, rfl⟩⟩
  have hdraws : f.state.draws = s.draws := by rw [hdec.state]
  refine ⟨_, exec_eq_finished_of_safe harch hoverlap hrace hbody hdraws, ?_, hdec.symbols,
    fun x hx => hdec.stores.outside (by omega) hx⟩
  rw [hdec.size]
  exact congrArg (finished · _ 0 0 0) hdec.state

end Sys2Proof.Machine

namespace Sys2Proof.Machine

/-! PROOFS. What a failure leaves unchanged, and the stream units it closes (spec/60_exceptions.md R321, R327;
43_bitstream.md R238). -/

/-! ### Commands that commit nothing before they fail -/

/-- A failure that leaves `s` itself, and no byte of it unspecified, is the error report alone. -/
theorem raise_eq_deliver {i : Instr} {s : State} {r : Raised} (heffects : failureEffects i r.state = s)
    (hranges : failureRanges i s = []) : s.raise i r = s.deliver r.error := by
  simp [State.raise, heffects, hranges, havocAll]

/-- The simple commands of 60_exceptions.md R321. -/
abbrev simpleCommands : List Instr := [.freqLoad, .treeBuild, .treeLengths, .canonAssign]

/-- A simple command commits in its last step, which cannot fail. -/
theorem bodyOf_failsUncommitted {i : Instr} (hi : i ∈ simpleCommands) (s : State) :
    FailsOnly (·.state = s) (bodyOf i s) := by
  have hstep {α : Type} (x : Except CmdError α) : FailsOnly (·.state = s) (raisedIn s x) :=
    failsOnly_raisedIn (P := (· = s)) rfl x
  cases i with
  | freqLoad => exact (hstep _).bind fun _ => (hstep _).bind fun _ => failsOnly_ok _
  | treeBuild | treeLengths | canonAssign => exact (hstep _).bind fun _ => failsOnly_ok _
  | _ => exact absurd hi (by decide)

theorem raise_simpleCommand {i : Instr} (hi : i ∈ simpleCommands) {s : State} {r : Raised} (hr : r.state = s) :
    s.raise i r = s.deliver r.error := by
  cases i with
  | freqLoad | treeBuild | treeLengths | canonAssign => exact raise_eq_deliver hr rfl
  | _ => exact absurd hi (by decide)

/-- A simple command that fails, for want of its context too, only delivers its error. -/
theorem exec_simpleCommand_failed {i : Instr} {s t : State} (hi : i ∈ simpleCommands) (herr : s.err = false)
    (h : exec i s = .next t) (ht : t.err = true) : ∃ e, t = s.deliver e := by
  cases hc : contextPresent i s with
  | false =>
    rw [exec_eq_runCommand, runCommand_noState hc] at h
    exact ⟨_, (Host.Outcome.next.inj h).symm⟩
  | true =>
    obtain ⟨r, hr, rfl⟩ := exists_raise_of_err hc herr h ht
    exact ⟨_, raise_simpleCommand hi (bodyOf_failsUncommitted hi s r hr)⟩

/-- Settles O20: the failure only delivers the error, which writes the error report and ends the command. -/
theorem simpleCommandsFailWithoutEffect : Obligations.SimpleCommandsFailWithoutEffect := by
  intro i s t hi herr h ht
  obtain ⟨e, rfl⟩ := exec_simpleCommand_failed hi herr h ht
  rfl

/-! ### The stream units -/

/-- The two ways a command whose context is present ends. -/
theorem exec_cases_of_contextPresent {i : Instr} {s t : State} (hc : contextPresent i s = true)
    (h : exec i s = .next t) :
    (∃ d, bodyOf i s = .ok d ∧ t = completed i s d) ∨ ∃ r, bodyOf i s = .error r ∧ t = s.raise i r := by
  rw [exec_eq_runCommand] at h
  obtain ⟨hnone, -⟩ | ⟨-, hok⟩ | ⟨-, herror⟩ := runCommand_cases h
  · exact absurd (hc.symm.trans hnone) Bool.noConfusion
  · exact .inl hok
  · exact .inr herror

theorem raise_writer {i : Instr} (hi : i ∈ writerCommands) (s : State) (r : Raised) :
    (s.raise i r).writer = Writer.closed :=
  failureEffects_writer hi r.state

theorem raise_reader {i : Instr} (hi : i ∈ readerCommands) (s : State) (r : Raised) :
    (s.raise i r).reader = Reader.closed :=
  failureEffects_reader hi r.state

/-- The commands that encode a frame (44_frame_codec.md R260). -/
abbrev encodeCommands : List Instr := [.frameEncode, .archAdd]

/-- The commands that decode a frame (44_frame_codec.md R262). -/
abbrev decodeCommands : List Instr := [.frameDecode, .archExtract]

/-- An encoding command that completes has closed the writer itself. -/
theorem bodyOf_writer_closed {i : Instr} (hi : i ∈ encodeCommands) (s : State) :
    Yields (fun d => d.state.writer = Writer.closed) (bodyOf i s) := by
  cases i with
  | frameEncode => exact frameEncodeBody_writer.bind fun _ hf => yields_ok hf
  | archAdd => exact yields_bind fun _ _ => frameEncodeBody_writer.bind fun _ hf => yields_ok hf
  | _ => exact absurd hi (by decide)

/-- A decoding command that completes has closed the reader itself. -/
theorem bodyOf_reader_closed {i : Instr} (hi : i ∈ decodeCommands) (s : State) :
    Yields (fun d => d.state.reader = Reader.closed) (bodyOf i s) := by
  cases i with
  | frameDecode => exact frameDecodeBody_reader.bind fun _ hf => yields_ok hf
  | archExtract => exact yields_bind fun _ _ => frameDecodeBody_reader.bind fun _ hf => yields_ok hf
  | _ => exact absurd hi (by decide)

theorem exec_closes_writer {i : Instr} {s t : State} (hi : i ∈ encodeCommands) (hc : contextPresent i s = true)
    (h : exec i s = .next t) : t.writer = Writer.closed := by
  have hsub : encodeCommands ⊆ writerCommands := by decide
  obtain ⟨d, hd, rfl⟩ | ⟨r, -, rfl⟩ := exec_cases_of_contextPresent hc h
  · exact bodyOf_writer_closed hi s d hd
  · exact raise_writer (hsub hi) s r

theorem exec_closes_reader {i : Instr} {s t : State} (hi : i ∈ decodeCommands) (hc : contextPresent i s = true)
    (h : exec i s = .next t) : t.reader = Reader.closed := by
  have hsub : decodeCommands ⊆ readerCommands := by decide
  obtain ⟨d, hd, rfl⟩ | ⟨r, -, rfl⟩ := exec_cases_of_contextPresent hc h
  · exact bodyOf_reader_closed hi s d hd
  · exact raise_reader (hsub hi) s r

/-- Settles O21: a failure of a stream command closes its unit, and the frame commands close theirs when they
complete too. -/
theorem failuresCloseTheStreamUnits : Obligations.FailuresCloseTheStreamUnits := by
  intro i s t herr hc h
  have hwriter : [.bwOpen, .bwWrite, .bwSym, .bwFlush] ⊆ writerCommands := by decide
  have hreader : [.brOpen, .brReadbit, .brSym, .brClose] ⊆ readerCommands := by decide
  refine ⟨fun hi ht => ?_, fun hi ht => ?_, fun hi => exec_closes_writer hi hc h,
    fun hi => exec_closes_reader hi hc h⟩
  · obtain ⟨r, -, rfl⟩ := exists_raise_of_err hc herr h ht
    exact raise_writer (hwriter hi) s r
  · obtain ⟨r, -, rfl⟩ := exists_raise_of_err hc herr h ht
    exact raise_reader (hreader hi) s r

end Sys2Proof.Machine

namespace Sys2Proof.Machine

/-! PROOFS. How far a command that fails had stored: nothing, or up to the end of its destination
(20_memory.md R72, R89). -/

/-! ### How far a step had stored when it failed -/

/-- A step that, if it fails, had stored no byte at or above `hi`. -/
abbrev FailsBelow {α : Type} (hi : Nat) (x : Except CmdError α) : Prop := FailsOnly (·.reached ≤ hi) x

/-- A step of a body, with its commits, that fails as `FailsBelow` says. -/
abbrev RaisesBelow {α : Type} (hi : Nat) (x : Except Raised α) : Prop := FailsOnly (·.error.reached ≤ hi) x

/-- The rest of a sequence runs only on what its first step gave. -/
theorem FailsOnly.bind_of_ok {ε α β : Type} {P : ε → Prop} {x : Except ε β} {f : β → Except ε α}
    (hx : FailsOnly P x) (hf : ∀ b, x = .ok b → FailsOnly P (f b)) : FailsOnly P (x >>= f) := fun e he => by
  obtain he | ⟨b, hb, he⟩ := except_bind_eq_error.1 he
  · exact hx e he
  · exact hf b hb e he

section
variable {α : Type} {hi : Nat} {x : Except CmdError α}

theorem FailsBelow.raisedIn (hx : FailsBelow hi x) (s : State) : RaisesBelow hi (raisedIn s x) := fun r hr => by
  obtain ⟨e, he, rfl⟩ := raisedIn_eq_error.1 hr
  exact hx e he

theorem FailsBelow.havingStored {n : Nat} (hx : FailsBelow hi x) (hn : n ≤ hi) :
    FailsBelow hi (havingStored n x) := fun e he => by
  obtain ⟨e', he', rfl⟩ := havingStored_eq_error.1 he
  exact Nat.max_le.2 ⟨hn, hx e' he'⟩

theorem frameError_reached (e : CmdError) : (frameError e).reached = e.reached := by
  unfold frameError
  split <;> rfl

theorem FailsBelow.inFrame (hx : FailsBelow hi x) : FailsBelow hi (inFrame x) := by
  cases x with
  | ok a => exact failsOnly_ok a
  | error e => exact failsOnly_error ((frameError_reached e).trans_le (hx e rfl))

/-- An error that stands for no byte stored. -/
theorem failsBelow_error {c : ErrCode} {info : Nat} :
    FailsBelow hi (.error { code := c, info := info } : Except CmdError α) :=
  failsOnly_error (Nat.zero_le hi)

theorem failIf_failsBelow {c : Bool} {k : ErrCode} {n : Nat} : FailsBelow hi (failIf c k n) := fun e he => by
  obtain ⟨-, rfl⟩ := failIf_eq_error.1 he
  exact Nat.zero_le hi

/-- A check, and the rest of the step after it. -/
theorem failIf_bind_failsBelow {c : Bool} {k : ErrCode} {n : Nat} {f : Unit → Except CmdError α}
    (hf : ∀ u, FailsBelow hi (f u)) : FailsBelow hi (failIf c k n >>= f) :=
  failIf_failsBelow.bind hf

/-- A check at the head of a body, and the rest of the body after it. -/
theorem failIf_bind_raisesBelow {s : State} {c : Bool} {k : ErrCode} {n : Nat} {f : Unit → Except Raised α}
    (hf : ∀ u, RaisesBelow hi (f u)) : RaisesBelow hi (raisedIn s (failIf c k n) >>= f) :=
  (failIf_failsBelow.raisedIn s).bind hf

end

/-! The steps that store nothing: reads, the bit reader, the tables, the checks. -/

section
variable {hi : Nat}

theorem memRead_failsBelow (v : View) (a : Nat) : FailsBelow hi (memRead v a) := by
  unfold memRead
  split
  · exact failsOnly_ok _
  · exact failsBelow_error

theorem memReadN_failsBelow (v : View) (a n : Nat) : FailsBelow hi (memReadN v a n) := by
  induction n generalizing a with
  | zero => exact failsOnly_ok _
  | succ n ih => exact (memRead_failsBelow v a).bind fun _ => (ih (a + 1)).bind fun _ => failsOnly_ok _

theorem readBit_failsBelow (v : View) (r : Reader) : FailsBelow hi (readBit v r) := by
  unfold readBit
  split
  · split
    · exact failsOnly_ok _
    · exact (memRead_failsBelow v _).bind fun _ => failsOnly_ok _
  · exact failsOnly_ok _

theorem decodeBits_failsBelow (v : View) (c : Canon) (produced fuel n value : Nat) (r : Reader) :
    FailsBelow hi (decodeBits v c produced fuel n value r) := by
  induction fuel generalizing n value r with
  | zero => exact failsBelow_error
  | succ fuel ih =>
    refine (readBit_failsBelow v r).bind fun x => ?_
    obtain ⟨_ | b, r'⟩ := x
    · exact failsBelow_error
    · dsimp only
      split
      · exact failsOnly_ok _
      · split
        · exact failsBelow_error
        · exact ih _ _ _

theorem decodeSymbol_failsBelow (v : View) (c : Canon) (r : Reader) (produced : Nat) :
    FailsBelow hi (decodeSymbol v c r produced) :=
  failIf_bind_failsBelow fun _ => decodeBits_failsBelow v c produced _ _ _ r

theorem buildTree_failsBelow (f : Vector Word 256) : FailsBelow hi (buildTree f) :=
  failIf_bind_failsBelow fun _ => failIf_bind_failsBelow fun _ => failsOnly_ok _

theorem treeDepths_failsBelow (t : Tree) : FailsBelow hi (treeDepths t) := by
  unfold treeDepths
  dsimp only
  split
  · exact failsBelow_error
  · exact failsOnly_ok _

theorem assignCodes_failsBelow (l : Vector Byte 256) : FailsBelow hi (assignCodes l) := by
  unfold assignCodes
  split
  · exact failsBelow_error
  · split
    · exact failsBelow_error
    · exact failsOnly_ok _

theorem encodeChecks_failsBelow (s : State) (src len dst cap : Nat) :
    FailsBelow hi (encodeChecks s src len dst cap) :=
  failIf_bind_failsBelow fun _ => failIf_bind_failsBelow fun _ => failIf_bind_failsBelow fun _ =>
    failIf_bind_failsBelow fun _ => failIf_failsBelow

theorem encodeTables_raisesBelow (s : State) (len : Nat) : RaisesBelow hi (encodeTables s len) := by
  have hlengths : RaisesBelow hi (encodeLengths s len) := by
    unfold encodeLengths
    split
    · exact failsOnly_ok _
    · exact ((buildTree_failsBelow _).raisedIn s).bind fun t => ((treeDepths_failsBelow t).raisedIn _).bind
        fun _ => failsOnly_ok _
  exact hlengths.bind fun s1 => ((assignCodes_failsBelow s1.len).raisedIn s1).bind fun _ => failsOnly_ok _

theorem decodeHeader_failsBelow (v : View) (src len dst cap : Nat) :
    FailsBelow hi (decodeHeader v src len dst cap) :=
  failIf_bind_failsBelow fun _ => failIf_bind_failsBelow fun _ => failIf_bind_failsBelow fun _ =>
    (memReadN_failsBelow v _ _).bind fun _ => failIf_bind_failsBelow fun _ =>
      (memReadN_failsBelow v _ _).bind fun _ => failsOnly_ok _

theorem checkSize_failsBelow (expected : Option (Nat × Nat)) (size : Nat) :
    FailsBelow hi (checkSize expected size) := by
  cases expected with
  | none => exact failsOnly_ok _
  | some x => exact failIf_failsBelow

theorem addPath_failsBelow (s : State) : FailsBelow hi (addPath s) :=
  failIf_bind_failsBelow fun _ => failIf_bind_failsBelow fun _ => failIf_bind_failsBelow fun _ =>
    (memReadN_failsBelow _ _ _).bind fun _ => failIf_bind_failsBelow fun _ =>
      failIf_bind_failsBelow fun _ => failsOnly_ok _

theorem openCount_failsBelow (s : State) : FailsBelow hi (openCount s) :=
  failIf_bind_failsBelow fun _ => failIf_bind_failsBelow fun _ =>
    (memReadN_failsBelow _ _ _).bind fun _ => failIf_bind_failsBelow fun _ =>
      (memRead_failsBelow _ _).bind fun _ => failIf_bind_failsBelow fun _ =>
        (memReadN_failsBelow _ _ _).bind fun _ => failIf_bind_failsBelow fun _ => failsOnly_ok _

theorem findEntry_failsBelow (v : View) (s : State) (q : List Byte) (left i : Nat) :
    FailsBelow hi (findEntry v s q left i) := by
  induction left generalizing i with
  | zero => exact failsBelow_error
  | succ left ih =>
    refine (memReadN_failsBelow v _ _).bind fun _ => ?_
    split
    · exact failsOnly_ok _
    · exact ih _

theorem findPath_failsBelow (s : State) : FailsBelow hi (findPath s) :=
  failIf_bind_failsBelow fun _ => failIf_bind_failsBelow fun _ =>
    (memReadN_failsBelow _ _ _).bind fun q => findEntry_failsBelow _ s q _ _

theorem extractEntry_failsBelow (s : State) : FailsBelow hi (extractEntry s) :=
  failIf_bind_failsBelow fun _ => failIf_bind_failsBelow fun _ =>
    (memReadN_failsBelow _ _ _).bind fun _ => failIf_bind_failsBelow fun _ => failsOnly_ok _

end

/-- A command without a write range that fails had stored nothing (20_memory.md R72). -/
theorem bodyOf_raisesBelow_zero {i : Instr} (s : State) (hi : writeRanges i s = []) :
    RaisesBelow 0 (bodyOf i s) := by
  cases i with
  | bwWrite | bwSym | bwFlush | frameEncode | frameDecode | archBegin | archAdd | archEnd | archExtract =>
    exact absurd hi (List.cons_ne_nil _ _)
  | nop | freqClear | brClose => exact failsOnly_ok _
  | bwOpen | brOpen => exact failIf_bind_raisesBelow fun _ => failsOnly_ok _
  | freqLoad | archEntry =>
    exact failIf_bind_raisesBelow fun _ => ((memReadN_failsBelow _ _ _).raisedIn s).bind fun _ => failsOnly_ok _
  | treeBuild => exact ((buildTree_failsBelow _).raisedIn s).bind fun _ => failsOnly_ok _
  | treeLengths => exact ((treeDepths_failsBelow _).raisedIn s).bind fun _ => failsOnly_ok _
  | canonAssign => exact ((assignCodes_failsBelow _).raisedIn s).bind fun _ => failsOnly_ok _
  | brReadbit =>
    refine ((readBit_failsBelow _ _).raisedIn s).bind fun x => ?_
    obtain ⟨_ | b, r⟩ := x <;> exact failsOnly_ok _
  | brSym => exact ((decodeSymbol_failsBelow _ _ _ _).raisedIn s).bind fun _ => failsOnly_ok _
  | archOpen => exact ((openCount_failsBelow s).raisedIn _).bind fun _ => failsOnly_ok _
  | archFind => exact ((findPath_failsBelow s).raisedIn s).bind fun _ => failsOnly_ok _

/-! The steps that store, up to the end of their destination. -/

theorem memWrite_failsBelow {hi : Nat} (p : Config.Params) (m : Memory) {a : Nat} (b : Byte) (ha : a ≤ hi) :
    FailsBelow hi (memWrite p m a b) := by
  unfold memWrite
  split
  · exact failsOnly_ok _
  · exact failsOnly_error ha

theorem memWriteN_failsBelow {hi : Nat} (p : Config.Params) (m : Memory) {a : Nat} {bs : List Byte}
    (ha : a + bs.length ≤ hi) : FailsBelow hi (memWriteN p m a bs) := fun e he => by
  obtain ⟨k, hk, rfl, -⟩ := memWriteN_error he
  exact (Nat.add_le_add_left hk.le a).trans ha

/-- What an open writer has put, stored or still in the chunk buffer, lies in its destination. -/
theorem WriterFits.chunk_le {w : Writer} (hw : WriterFits w) :
    w.nextStore + w.chunk.length ≤ w.wdst.toNat + w.wcap.toNat := by
  obtain ⟨hcount, hroom⟩ := hw
  unfold Writer.nextStore
  omega

theorem WriterFits.nextStore_le {w : Writer} (hw : WriterFits w) :
    w.nextStore ≤ w.wdst.toNat + w.wcap.toNat :=
  (Nat.le_add_right _ _).trans hw.chunk_le

/-- The destination's end stays where it is. -/
theorem WriterRan.end_le {w : Writer} {m : Memory} {x : Writer × Memory} {hi : Nat} (hran : WriterRan w m x)
    (h : w.wdst.toNat + w.wcap.toNat ≤ hi) : x.1.wdst.toNat + x.1.wcap.toNat ≤ hi := by
  rwa [hran.wdst, hran.wcap]

section
variable {hi : Nat} {p : Config.Params} {w : Writer} {m : Memory}

theorem chunkWrite_failsBelow (h : w.nextStore + w.chunk.length ≤ hi) : FailsBelow hi (chunkWrite p w m) :=
  (memWriteN_failsBelow p m h).bind fun _ => failsOnly_ok _

/-- The byte put is in the chunk buffer when the chunk is stored, and there was room for it. -/
theorem putByte_failsBelow (v : Byte) (hw : WriterFits w) (h : w.wdst.toNat + w.wcap.toNat ≤ hi) :
    FailsBelow hi (putByte p w m v) := by
  simp only [putByte]
  split
  · exact failsOnly_error (hw.nextStore_le.trans h)
  · rename_i hroom
    have hcount := hw.count
    split
    · refine chunkWrite_failsBelow ?_
      simp only [Writer.nextStore, List.length_append, List.length_singleton]
      omega
    · exact failsOnly_ok _

theorem putBit_failsBelow (b : Bool) (hw : WriterFits w) (h : w.wdst.toNat + w.wcap.toNat ≤ hi) :
    FailsBelow hi (putBit p w m b) := by
  unfold putBit
  split
  · exact (putByte_failsBelow _ hw h).bind fun _ => failsOnly_ok _
  · exact failsOnly_ok _

theorem writeBits_failsBelow (bits : Word) (n : Nat) (hw : WriterFits w)
    (h : w.wdst.toNat + w.wcap.toNat ≤ hi) : FailsBelow hi (writeBits p bits n w m) := by
  induction n generalizing w m with
  | zero => exact failsOnly_ok _
  | succ n ih =>
    refine (putBit_failsBelow _ hw h).bind_of_ok fun x hx => ?_
    have hran := putBit_ran _ hw x hx
    exact ih hran.fits (hran.end_le h)

theorem flushWriter_failsBelow (hw : WriterFits w) (h : w.wdst.toNat + w.wcap.toNat ≤ hi) :
    FailsBelow hi (flushWriter p w m) := by
  rw [flushWriter_eq]
  split
  · refine (putByte_failsBelow _ hw h).bind_of_ok fun x hx => chunkWrite_failsBelow ?_
    have hran := putByte_ran _ hw x hx
    exact hran.fits.chunk_le.trans (hran.end_le h)
  · exact chunkWrite_failsBelow (hw.chunk_le.trans h)

theorem encodePayload_failsBelow {v : View} {s : State} {src n i : Nat} (hw : WriterFits w)
    (h : w.wdst.toNat + w.wcap.toNat ≤ hi) : FailsBelow hi (encodePayload v s src n i w m) := by
  induction n generalizing i w m with
  | zero => exact failsOnly_ok _
  | succ n ih =>
    have hstored : w.nextStore ≤ hi := hw.nextStore_le.trans h
    refine ((memRead_failsBelow v _).havingStored hstored).bind fun _ =>
      (failIf_failsBelow.havingStored hstored).bind fun _ =>
        (writeBits_failsBelow _ _ hw h).bind_of_ok fun x hx => ?_
    have hran := writeBits_ran _ _ hw x hx
    exact ih hran.fits (hran.end_le h)

end

/-- The checks of FRAME_ENCODE leave a destination inside the address space, with room for the header. -/
theorem encodeChecks_fits {s : State} {src len dst cap : Nat} {u : Unit}
    (h : encodeChecks s src len dst cap = .ok u) : dst + cap ≤ addressLimit ∧ Config.frameHdr ≤ cap := by
  obtain ⟨_, -, h⟩ := except_bind_eq_ok.1 h
  obtain ⟨_, hdst, h⟩ := except_bind_eq_ok.1 h
  obtain ⟨_, hcap, -⟩ := except_bind_eq_ok.1 h
  exact ⟨checkRange_eq_ok.1 hdst, by simpa using failIf_eq_ok.1 hcap⟩

theorem openedWriter_end_le (dst cap : Nat) :
    (openedWriter dst cap).wdst.toNat + (openedWriter dst cap).wcap.toNat ≤ dst + cap :=
  Nat.add_le_add (Nat.mod_le dst _) (Nat.mod_le cap _)

section
variable {hi : Nat} {v : View} {s : State} {src len dst cap : Nat}

/-- Header, payload, flush and backpatch: the payload's writer is opened right after the header. -/
theorem encodeFrame_failsBelow (hcap : Config.frameHdr ≤ cap) (h : dst + cap ≤ hi) :
    FailsBelow hi (encodeFrame v s src len dst cap) := by
  have hhdr : Config.frameHdr = 269 := rfl
  have hfits : WriterFits (openedWriter (dst + Config.frameHdr) (cap - Config.frameHdr)) :=
    ⟨rfl, Nat.zero_le _⟩
  have hend : (openedWriter (dst + Config.frameHdr) (cap - Config.frameHdr)).wdst.toNat +
      (openedWriter (dst + Config.frameHdr) (cap - Config.frameHdr)).wcap.toNat ≤ hi :=
    (openedWriter_end_le _ _).trans (by omega)
  have hheader : dst + (frameHeader len s.len).length ≤ hi := by
    rw [length_frameHeader]
    omega
  refine (memWriteN_failsBelow s.params s.mem hheader).bind fun m1 =>
    ((encodePayload_failsBelow hfits hend).inFrame.havingStored (by omega)).bind_of_ok fun x2 hx2 => ?_
  have hran2 := (encodePayload_ran hfits).inFrame x2 (havingStored_eq_ok.1 hx2)
  refine ((flushWriter_failsBelow hran2.fits (hran2.end_le hend)).inFrame.havingStored (by omega)).bind_of_ok
    fun x3 hx3 => ?_
  have hran3 := (flushWriter_ran hran2.fits).inFrame x3 (havingStored_eq_ok.1 hx3)
  have hroom : x3.1.wpos.toNat ≤ cap - Config.frameHdr :=
    (hran2.trans hran3).wpos_le.trans (Nat.mod_le (cap - Config.frameHdr) _)
  exact ((memWrite_failsBelow _ _ _ (by omega)).havingStored (by omega)).bind fun _ => failsOnly_ok _

theorem frameEncodeBody_raisesBelow (h : dst + cap ≤ addressLimit → dst + cap ≤ hi) :
    RaisesBelow hi (frameEncodeBody v s src len dst cap) := by
  refine ((encodeChecks_failsBelow s src len dst cap).raisedIn s).bind_of_ok fun _ hchecks => ?_
  obtain ⟨hdst, hcap⟩ := encodeChecks_fits (raisedIn_eq_ok.1 hchecks)
  exact (encodeTables_raisesBelow s len).bind fun s1 => (encodeFrame_failsBelow hcap (h hdst)).raisedIn s1

theorem decodePayload_failsBelow {p : Config.Params} {c : Canon} {n i : Nat} {r : Reader} {m : Memory}
    (h : dst + i + n ≤ hi) : FailsBelow hi (decodePayload v p c dst n i r m) := by
  induction n generalizing i r m with
  | zero => exact failsOnly_ok _
  | succ n ih =>
    exact ((decodeSymbol_failsBelow v c r i).havingStored (by omega)).bind fun _ =>
      (memWrite_failsBelow p m _ (by omega)).bind fun _ => ih (by omega)

theorem decodeFrame_failsBelow {hd : Header} (h : dst + cap ≤ hi) :
    FailsBelow hi (decodeFrame v s hd src len dst cap) := by
  refine failIf_bind_failsBelow fun _ => failIf_failsBelow.bind_of_ok fun _ hcap => ?_
  have hsize : hd.size ≤ cap := by simpa using failIf_eq_ok.1 hcap
  exact (decodePayload_failsBelow (by omega)).bind fun _ => failsOnly_ok _

/-- The destination of FRAME_DECODE, which its header checks leave inside the address space. -/
theorem frameDecodeBody_raisesBelow {expected : Option (Nat × Nat)}
    (h : dst + cap ≤ addressLimit → dst + cap ≤ hi) :
    RaisesBelow hi (frameDecodeBody v s src len dst cap expected) := by
  refine ((decodeHeader_failsBelow v src len dst cap).raisedIn s).bind_of_ok fun hd hheader => ?_
  obtain ⟨_, -, hrest⟩ := except_bind_eq_ok.1 (raisedIn_eq_ok.1 hheader)
  obtain ⟨_, hdst, -⟩ := except_bind_eq_ok.1 hrest
  exact ((checkSize_failsBelow expected hd.size).raisedIn s).bind fun _ =>
    ((assignCodes_failsBelow _).raisedIn _).bind fun _ =>
      (decodeFrame_failsBelow (h (checkRange_eq_ok.1 hdst))).raisedIn _

end

/-! The archive commands. -/

theorem beginWrites_failsBelow {hi : Nat} {s : State} (h : a0 s + a1 s ≤ addressLimit → a0 s + a1 s ≤ hi) :
    FailsBelow hi (beginWrites s) := by
  refine failIf_failsBelow.bind_of_ok fun _ hrange => failIf_bind_failsBelow fun _ =>
    failIf_failsBelow.bind_of_ok fun _ hcap => memWriteN_failsBelow _ _ ?_
  have hroom : Config.archHdr + a2 s * s.params.entryLen ≤ a1 s := by simpa using failIf_eq_ok.1 hcap
  rw [length_beginBytes]
  exact (Nat.add_le_add_left hroom _).trans (h (checkRange_eq_ok.1 hrange))

/-- ARCH_END stores the count and then the table (45_archive.md R283). -/
theorem archEnd_raisesBelow {hi : Nat} {s : State}
    (hpaths : ∀ e ∈ s.create.ram, e.path.length = s.params.pathLen)
    (h : s.create.abase.toNat + Config.archHdr + s.create.an.toNat * s.params.entryLen ≤ hi) :
    RaisesBelow hi (archEnd s) := by
  have hhdr : Config.archHdr = 9 := rfl
  have hcount : s.create.abase.toNat + 5 + (leBytes 4 s.create.an.toNat).length ≤ hi := by
    rw [length_leBytes]
    omega
  have htable : s.create.abase.toNat + Config.archHdr +
      (tableBytes s.params s.create.ram s.create.an.toNat).length ≤ hi := by
    rwa [length_tableBytes hpaths]
  exact ((memWriteN_failsBelow _ _ hcount).raisedIn s).bind fun _ =>
    ((memWriteN_failsBelow _ _ htable).raisedIn s).bind fun _ => failsOnly_ok _

end Sys2Proof.Machine

namespace Sys2Proof.Machine

/-! PROOFS. Reset and the step: what the soft reset and the reset input leave of memory, and when a step stops
(spec/70_reset_and_hazards.md R350, R351, R361). -/

/-! ### What the reset input finds stored -/

/-- The bytes a body had stored when it failed lie in the write range. -/
abbrev FailsInRange (i : Instr) (s : State) (x : Except Raised Done) : Prop :=
  FailsOnly (fun r => Within ⟨storeStart i s, r.error.reached⟩ (writeRanges i s)) x

theorem within_self (r : Range) : Within r [r] := fun a ha => by simpa [inRanges] using ha

theorem within_of_hi_zero (lo : Nat) (rs : List Range) : Within ⟨lo, 0⟩ rs :=
  fun a ha => absurd (inRange_eq_true.1 ha).2 (Nat.not_lt_zero a)

theorem failsInRange_of_raisesBelow {i : Instr} {s : State} {hi : Nat} {x : Except Raised Done}
    (hin : Within ⟨storeStart i s, hi⟩ (writeRanges i s)) (hx : RaisesBelow hi x) : FailsInRange i s x :=
  fun r hr a ha => hin a <| by
    rw [inRange_eq_true] at ha ⊢
    exact ⟨ha.1, ha.2.trans_le (hx r hr)⟩

/-- What a step of an open writer can have stored when it fails lies in the writer's range. -/
theorem WriterSound.failsInRange {i : Instr} {s : State} (hs : WriterSound s.params s.writer)
    (ho : s.writer.wopen = true) (hi : i ∈ [.bwWrite, .bwSym, .bwFlush]) {x : Except Raised Done}
    (hx : RaisesBelow (s.writer.wdst.toNat + s.writer.wcap.toNat) x) : FailsInRange i s x := by
  obtain ⟨-, -, -, -, hspace⟩ := hs.2 ho
  cases i with
  | bwWrite | bwSym | bwFlush =>
    exact failsInRange_of_raisesBelow (within_cut (Nat.le_add_right _ _) le_rfl hspace) hx
  | _ => exact absurd hi (by decide)

/-- 20_memory.md R72, R89: a command that fails had stored only in its write range. -/
theorem bodyOf_failsInRange {i : Instr} {s : State} (hunits : UnitsSound s) (hc : contextPresent i s = true) :
    FailsInRange i s (bodyOf i s) := by
  obtain ⟨hwriter, -, hcreate, -⟩ := hunits
  have hdest {a n : Nat} (h : a + n ≤ addressLimit) : a + n ≤ (rangeOf a n).hi := Nat.le_min.2 ⟨le_rfl, h⟩
  cases i with
  | bwWrite =>
    exact hwriter.failsInRange hc (by decide) <| failIf_bind_raisesBelow fun _ =>
      ((writeBits_failsBelow _ _ (hwriter.fits hc) le_rfl).raisedIn s).bind fun _ => failsOnly_ok _
  | bwSym =>
    have ho : s.writer.wopen = true := (Bool.and_eq_true_iff.1 hc).1
    exact hwriter.failsInRange ho (by decide) <| failIf_bind_raisesBelow fun _ => failIf_bind_raisesBelow fun _ =>
      ((writeBits_failsBelow _ _ (hwriter.fits ho) le_rfl).raisedIn s).bind fun _ => failsOnly_ok _
  | bwFlush =>
    exact hwriter.failsInRange hc (by decide) <|
      ((flushWriter_failsBelow (hwriter.fits hc) le_rfl).raisedIn s).bind fun _ => failsOnly_ok _
  | frameEncode =>
    exact failsInRange_of_raisesBelow (within_self _) <|
      (frameEncodeBody_raisesBelow hdest).bind fun _ => failsOnly_ok _
  | frameDecode =>
    exact failsInRange_of_raisesBelow (within_self _) <|
      (frameDecodeBody_raisesBelow hdest).bind fun _ => failsOnly_ok _
  | archExtract =>
    exact failsInRange_of_raisesBelow (within_self _) <| ((extractEntry_failsBelow s).raisedIn s).bind fun _ =>
      (frameDecodeBody_raisesBelow hdest).bind fun _ => failsOnly_ok _
  | archBegin =>
    exact failsInRange_of_raisesBelow (within_self _) <|
      ((beginWrites_failsBelow hdest).raisedIn _).bind fun _ => failsOnly_ok _
  | archAdd =>
    obtain ⟨-, -, -, -, -, haend, hspace⟩ := hcreate.2.1 hc
    refine failsInRange_of_raisesBelow (within_cut le_rfl le_rfl hspace) <|
      ((addPath_failsBelow s).raisedIn s).bind fun _ =>
        (frameEncodeBody_raisesBelow fun _ => ?_).bind fun _ => failsOnly_ok _
    omega
  | archEnd =>
    obtain ⟨han, -, -, hpaths, htable, haend, hspace⟩ := hcreate.2.1 hc
    have hrecords : s.create.an.toNat * s.params.entryLen ≤ s.create.aslots.toNat * s.params.entryLen :=
      Nat.mul_le_mul_right _ han
    exact failsInRange_of_raisesBelow (within_cut (Nat.le_add_right _ _) (by omega) (by omega))
      (archEnd_raisesBelow hpaths le_rfl)
  | _ =>
    exact failsInRange_of_raisesBelow (within_of_hi_zero _ _) (bodyOf_raisesBelow_zero s rfl)

/-- What a command stores, run to its end or until it fails, lies in its write range. -/
theorem storedBy_within {i : Instr} {s : State} (hunits : UnitsSound s) :
    Within (storedBy i s) (writeRanges i s) := by
  unfold storedBy
  split
  · rename_i hc
    split
    next d hd => exact (bodyOf_storesInRange hunits hc d hd).2
    next r hr => exact bodyOf_failsInRange hunits hc r hr
  · exact within_of_hi_zero 0 _

/-- Without its context, or without a write range, a command stores nothing. -/
theorem storedBy_hi_eq_zero {i : Instr} {s : State} (h : contextPresent i s = false ∨ writeRanges i s = []) :
    (storedBy i s).hi = 0 := by
  unfold storedBy
  split
  · rename_i hc
    obtain hnone | hw := h
    · exact absurd (hc.symm.trans hnone) Bool.noConfusion
    split
    next d hd => rw [(bodyOf_storesNothing s hw d hd).2]
    next r hr => exact Nat.le_zero.1 (bodyOf_raisesBelow_zero s hw r hr)
  · rfl

/-! ### Memory after a reset -/

theorem runningCommand_eq_some {s : State} {i : Instr} :
    runningCommand s = some i ↔ decode s.latch.op = .ok i := by
  unfold runningCommand
  split <;> simp_all

theorem runningCommand_eq_none {s : State} (h : ∀ i, decode s.latch.op ≠ .ok i) : runningCommand s = none :=
  Option.eq_none_iff_forall_ne_some.2 fun i hi => h i (runningCommand_eq_some.1 hi)

theorem abandonedMem_of_idle {s : State} (h : s.busy = false) : abandonedMem s = s.mem := by
  simp [abandonedMem, h]

theorem interruptedMem_of_idle {s : State} (h : s.busy = false) : interruptedMem s = s.mem := by
  simp [interruptedMem, h]

/-- The soft reset leaves every byte outside the running command's write range as it was. -/
theorem readByte_abandonedMem {s : State} (hm : s.mem.wf) {a : Nat}
    (ha : ∀ i, decode s.latch.op = .ok i → inRanges (writeRanges i s) a = false) :
    readByte (abandonedMem s) a = readByte s.mem a := by
  unfold abandonedMem
  split
  · split
    next i hi => exact readByte_havocAll hm _ (ha i (runningCommand_eq_some.1 hi))
    next => rfl
  · rfl

theorem interruptedMem_of_illegal {s : State} (h : ∀ i, decode s.latch.op ≠ .ok i) :
    interruptedMem s = s.mem := by
  simp [interruptedMem, runningCommand_eq_none h]

theorem havoc_of_hi_eq_zero {m : Memory} {r : Range} (h : r.hi = 0) (d : Nat) : havoc m r d = m :=
  if_neg (by simp [h])

theorem interruptedMem_of_storesNothing {s : State} {i : Instr} (hd : decode s.latch.op = .ok i)
    (h : (storedBy i s).hi = 0) : interruptedMem s = s.mem := by
  simp [interruptedMem, runningCommand_eq_some.2 hd, havoc_of_hi_eq_zero h]

/-! ### When a step stops -/

/-- An input is served, but for an access of system memory outside the address space (20_memory.md R71). -/
theorem hostAct_next_or_fault (s : State) (op : HostOp) : (∃ t, hostAct s op = .next t) ∨
    ∃ a, addressLimit ≤ a ∧ hostAct s op = .fault (.noSuchAddress a) ∧
      (op = .memRead a ∨ ∃ b, op = .memWrite a b) := by
  cases op with
  | memRead a =>
    by_cases ha : a < addressLimit
    · exact .inl ⟨_, if_pos ha⟩
    · exact .inr ⟨a, Nat.le_of_not_lt ha, if_neg ha, .inl rfl⟩
  | memWrite a b =>
    by_cases ha : a < addressLimit
    · exact .inl ⟨_, if_pos ha⟩
    · exact .inr ⟨a, Nat.le_of_not_lt ha, if_neg ha, .inr ⟨b, rfl⟩⟩
  | mmioRead | mmioWrite | wait | setAdmit | assertReset | releaseReset => exact .inl ⟨_, rfl⟩

theorem step_of_input {s : State} {op : HostOp} {rest : List HostOp} (ht : engineTurn s = false)
    (hi : s.inputs = op :: rest) : step s = hostAct (s.takeInput rest) op := by
  simp [step, ht, hi]

/-! ### The obligations -/

/-- Settles O8: by what each reset leaves of memory; what the command that the reset input stops had stored lies
in its write range, whether it would complete or fail. -/
theorem ctrlWriteResetsOrEnables : Obligations.CtrlWriteResetsOrEnables := by
  refine ⟨fun s v hv hm => ⟨s.engineReset, if_pos hv, rfl, abandonedMem_of_idle,
      fun a => readByte_abandonedMem hm⟩,
    fun s v hv => if_neg (Bool.eq_false_iff.1 hv),
    fun s hm => ⟨s.hardReset, rfl, rfl, interruptedMem_of_idle, interruptedMem_of_illegal,
      fun i a hd ha => ?_, fun i a hd _ hunits ha => ?_,
      fun i hd h => interruptedMem_of_storesNothing hd (storedBy_hi_eq_zero h)⟩,
    fun s => rfl⟩
  · exact readByte_interruptedMem hm fun j hj => Except.ok.inj (hd.symm.trans hj) ▸ ha
  · have hout : inRange (storedBy i s) a = false :=
      Bool.eq_false_iff.2 fun hin => Bool.false_ne_true (ha.symm.trans (storedBy_within hunits a hin))
    exact readByte_interruptedMem hm fun j hj => Except.ok.inj (hd.symm.trans hj) ▸ hout

/-- Settles O13: a command always ends in a next state, and so does an input inside the address space. -/
theorem stepStopsOnlyOutsideTheAddressSpace : Obligations.StepStopsOnlyOutsideTheAddressSpace := by
  refine ⟨fun s => ?_, fun s a rest ht ha hop => ?_⟩
  · obtain ⟨-, i, -, hstep⟩ | ⟨-, -, hstep⟩ | ⟨-, -, hstep⟩ | ⟨-, op, rest, hi, hstep⟩ := step_cases s <;>
      rw [hstep]
    · exact .inl (exists_exec_eq_next i s)
    · exact .inl ⟨_, rfl⟩
    · exact .inl ⟨_, rfl⟩
    · obtain hnext | ⟨a, ha, hfault, hop⟩ := hostAct_next_or_fault (s.takeInput rest) op
      · exact .inl hnext
      · refine .inr ⟨a, rest, ha, hfault, ?_⟩
        obtain rfl | ⟨b, rfl⟩ := hop
        · exact .inl hi
        · exact .inr ⟨b, hi⟩
  · obtain hi | ⟨b, hi⟩ := hop <;> rw [step_of_input ht hi] <;> exact if_neg (Nat.not_lt.2 ha)

end Sys2Proof.Machine
